-- ==== Sys2Proof/Word.lean ====
section
/-! DEFINITION. The widths the spec gives its values: bytes, 16-bit and 32-bit words, the 36-bit request word
(spec 00_scope.md R10, 10_state.md R21 to R24, 30_encoding.md R70). -/
namespace Sys2Proof

/-- A byte (R10). -/
abbrev Byte := BitVec 8

/-- A 16-bit register or field (R21 to R24, R31 to R34). -/
abbrev Half := BitVec 16

/-- A 32-bit field or float bit pattern (R26, R27). -/
abbrev Word := BitVec 32

/-- A request word `{op[3:0], imm[31:0]}` (R70). -/
abbrev Request := BitVec 36

end Sys2Proof
end

