-- ==== Sys2Proof/Config.lean ====
section
/-! DEFINITION. What is fixed for a run: the station configuration (spec 00_scope.md R6, R8), the named parameters (R7), the
capacities (R8), the host's open parameters (45_host_session.md R204, R209); and the free values, opaque constants
without a body. -/
namespace Sys2Proof

/-- `cfg.FMT_NUMERIC` (R6). -/
inductive NumericFormat where
  | float
  | fixed
  deriving DecidableEq, Repr

/-- `cfg.FMT_PHASOR` (R6). -/
inductive PhasorFormat where
  | polar
  | rect
  deriving DecidableEq, Repr

/-- The station configuration `cfg` (R6). `cfg.NPH` and `cfg.NAN` are the lengths of the two name lists (log 12);
`cfg.NDG` is the constant 0 and has no field. Names are byte strings of any length (R8, NAME_MAX unbounded). -/
structure Station where
  pmuId      : Half
  stn        : List Byte
  timeBase   : Word
  fnom       : Half
  dataRate   : Half
  phName     : List (List Byte)
  anName     : List (List Byte)
  fmtNumeric : NumericFormat
  fmtPhasor  : PhasorFormat
  deriving DecidableEq, Repr

/-- `cfg.NPH` (R6). -/
def Station.nph (c : Station) : Nat := c.phName.length

/-- `cfg.NAN` (R6). -/
def Station.nan (c : Station) : Nat := c.anName.length

/-- `OBUF_CAP` (R8). -/
def obufCap : Nat := 65535

/-- `IBUF_CAP` (R8). -/
def ibufCap : Nat := 65535

/-- The configurations R6 and R8 admit. One outside is refused. -/
def Station.admitted (c : Station) : Bool :=
  decide (40 + 20 * (c.nph + c.nan) ≤ 65535) && decide (26 + 8 * c.nph + 4 * c.nan ≤ 65535)
    && (c.fnom == 0 || c.fnom == 1)
    && decide (1 ≤ c.dataRate.toNat) && decide (c.dataRate.toNat ≤ 32767)

/-- The configuration check at reset release (R217): only (`FLOAT`, `POLAR`) is supported. -/
def Station.supported (c : Station) : Bool :=
  c.fmtNumeric == .float && c.fmtPhasor == .polar

/-- The named parameters (R7). -/
structure Params where
  sync       : Byte
  typeData   : Byte
  typeCfg2   : Byte
  typeCmd    : Byte
  cmdDisable : Half
  cmdEnable  : Half
  cmdHdr     : Half
  cmdCfg1    : Half
  cmdCfg2    : Half
  formatWord : Half
  phunitV    : Word
  phunitI    : Word
  anunit     : Word
  deriving DecidableEq, Repr

/-- R7: the three frame type bytes are pairwise different. -/
def Params.typesDiffer (p : Params) : Bool :=
  p.typeData != p.typeCfg2 && p.typeData != p.typeCmd && p.typeCfg2 != p.typeCmd

/-- The five command codes, in the order of the table of R7. -/
def Params.codes (p : Params) : List Half :=
  [p.cmdDisable, p.cmdEnable, p.cmdHdr, p.cmdCfg1, p.cmdCfg2]

/-- R7: the five command codes are pairwise different. -/
def Params.codesDiffer (p : Params) : Bool := decide p.codes.Nodup

/-- The parameters R7 admits. -/
def Params.admitted (p : Params) : Bool := p.typesDiffer && p.codesDiffer

/-- `INTERVAL_DIV` (R204). -/
inductive IntervalDiv where
  | exact
  | floor
  deriving DecidableEq, Repr

/-- The parts of a data sample (R27): they name the free value an unpresented part takes. -/
inductive SampleField where
  | mag (i : Nat)
  | ang (i : Nat)
  | freqDev
  | rocof
  | analog (j : Nat)
  deriving DecidableEq, Repr

/-- `P_PHUNIT_V`, OPEN (R7, 92_eei_decisions.md D7): free value (log 3). -/
opaque Config.phunitV : Word

/-- `P_PHUNIT_I`, OPEN (R7, D7): free value (log 3). -/
opaque Config.phunitI : Word

/-- `P_ANUNIT`, OPEN (R7, D7): free value (log 3). -/
opaque Config.anunit : Word

/-- `INTERVAL_DIV`, OPEN (R204, D24): free value (log 17). -/
opaque Config.intervalFloor : Bool

/-- The resolution of the host's clock, one less than its ticks in a millisecond, OPEN (R204, D24): free value (log 17). -/
opaque Config.clockTicks : Nat

/-- `deg2rad`, OPEN (R209, D17): an uninterpreted function on float bit patterns (log 16). -/
opaque Config.deg2rad : Word → Word

/-- `now_soc` at a draw at which the host presents no time (R26, 93 I14): any value (log 4). -/
opaque Config.freeSoc : Nat → Word

/-- `now_usec` at such a draw (R26, I14): any value in 0..999999 (log 4). -/
opaque Config.freeUsec : Nat → Fin 1000000

/-- A part of the sample at a draw at which the host does not present it (R27, I10): any value (log 4). -/
opaque Config.freeSample : Nat → SampleField → Word

/-- The parameters with the defaults of R7 (the spec's general knowledge, log 3), the OPEN words free. -/
def Params.default : Params where
  sync       := 0xAA
  typeData   := 0x01
  typeCfg2   := 0x31
  typeCmd    := 0x41
  cmdDisable := 0x0001
  cmdEnable  := 0x0002
  cmdHdr     := 0x0003
  cmdCfg1    := 0x0004
  cmdCfg2    := 0x0005
  formatWord := 0x000F
  phunitV    := Config.phunitV
  phunitI    := Config.phunitI
  anunit     := Config.anunit

/-- The configuration in State.reset: cfgA of 95_test_vectors.md, the configuration of its vector V80 (DESIGN CHOICE, log 2).
Names: "PMU1", "VA", "A1". -/
def Config.station : Station where
  pmuId      := 1
  stn        := [0x50, 0x4D, 0x55, 0x31]
  timeBase   := 1000000
  fnom       := 0
  dataRate   := 50
  phName     := [[0x56, 0x41]]
  anName     := [[0x41, 0x31]]
  fmtNumeric := .float
  fmtPhasor  := .polar

/-- `INTERVAL_DIV` in State.reset (log 17). -/
def Config.intervalDiv : IntervalDiv := if Config.intervalFloor then .floor else .exact

end Sys2Proof
end

