-- ==== Sys2Proof/Syntax.lean ====
section
/-! DEFINITION. The instructions: one constructor per row of spec/opcode_table.json, in three formats (spec 30_encoding.md R86):
the sixteen requests (REQ, R71), the three frame kinds of a received frame (FRAME16, R81), the six command classes (CMD16,
R82). Operands are typed; the unused bits of a request are no part of an instruction (R72). -/
namespace Sys2Proof

/-- The instruction set. -/
inductive Instr where
  /-- R102. -/
  | obufClear
  /-- R103. -/
  | putU16 (v : Half)
  /-- R105: the operand's two's complement bits. -/
  | putI16 (v : Half)
  /-- R107. -/
  | putU32 (v : Word)
  /-- R104: the float's bit pattern. -/
  | putF32 (w : Word)
  /-- R108: the name index. -/
  | putName16 (k : Half)
  /-- R120. -/
  | crcInit
  /-- R121. -/
  | crcByte (b : Byte)
  /-- R124. -/
  | crcObuf
  /-- R143: the type byte. -/
  | frameBegin (t : Byte)
  /-- R144. -/
  | frameEnd
  /-- R148. -/
  | buildCfg2
  /-- R154. -/
  | buildData
  /-- R172. -/
  | parseCmd
  /-- R110: the offset into IBUF. -/
  | getU16 (k : Half)
  /-- R109. -/
  | putU8 (b : Byte)
  /-- R74, R81: a received chunk that opens with `P_SYNC`, `P_TYPE_CMD`; `body` is the rest of the chunk. -/
  | frameCmd (body : List Byte)
  /-- R76, R81: a received chunk that opens with `P_SYNC`, `P_TYPE_DATA`. -/
  | frameData (body : List Byte)
  /-- R78, R81: a received chunk that opens with `P_SYNC`, `P_TYPE_CFG2`. -/
  | frameCfg2 (body : List Byte)
  /-- R193, R194: the code `P_CMD_DISABLE`. -/
  | cmdDisable
  /-- R193, R194: the code `P_CMD_ENABLE`. -/
  | cmdEnable
  /-- R193, R194: the code `P_CMD_HDR`. -/
  | cmdSendHdr
  /-- R193, R194: the code `P_CMD_CFG1`. -/
  | cmdSendCfg1
  /-- R193, R194: the code `P_CMD_CFG2`. -/
  | cmdSendCfg2
  /-- R193, R195: any other 16-bit code. -/
  | cmdOther (code : Half)
  deriving DecidableEq, Repr

/-- The requests of the block (R71): the rows of format REQ. -/
def Instr.isRequest : Instr → Bool
  | .obufClear | .putU16 _ | .putI16 _ | .putU32 _ | .putF32 _ | .putName16 _ | .crcInit | .crcByte _ | .crcObuf
  | .frameBegin _ | .frameEnd | .buildCfg2 | .buildData | .parseCmd | .getU16 _ | .putU8 _ => true
  | .frameCmd _ | .frameData _ | .frameCfg2 _ | .cmdDisable | .cmdEnable | .cmdSendHdr | .cmdSendCfg1 | .cmdSendCfg2
  | .cmdOther _ => false

end Sys2Proof
end

