-- ==== Sys2Proof/WellFormed.lean ====
section
/-! DEFINITION. The checks an instruction must pass to be the reading of some word: a received chunk fits IBUF (spec 20_memory.md
R57), and the catch-all command row holds only codes no other row matches (30_encoding.md R86). -/
namespace Sys2Proof

/-- A received chunk of two opening bytes and `body` fits IBUF (R57). -/
def bodyFits (body : List Byte) : Bool := decide (body.length + 2 ≤ ibufCap)

/-- Whether the instruction is one some word of the three formats stands for, under the parameters `p`. -/
def Instr.wellFormed (p : Params) : Instr → Bool
  | .frameCmd body => bodyFits body
  | .frameData body => bodyFits body
  | .frameCfg2 body => bodyFits body
  | .cmdOther code => decide (code ∉ p.codes)
  | .obufClear => true
  | .putU16 _ => true
  | .putI16 _ => true
  | .putU32 _ => true
  | .putF32 _ => true
  | .putName16 _ => true
  | .crcInit => true
  | .crcByte _ => true
  | .crcObuf => true
  | .frameBegin _ => true
  | .frameEnd => true
  | .buildCfg2 => true
  | .buildData => true
  | .parseCmd => true
  | .getU16 _ => true
  | .putU8 _ => true
  | .cmdDisable => true
  | .cmdEnable => true
  | .cmdSendHdr => true
  | .cmdSendCfg1 => true
  | .cmdSendCfg2 => true

end Sys2Proof
end

