-- ==== Sys2Proof/Decode.lean ====
section
/-! DEFINITION. The three decoders of spec 30_encoding.md (R70 to R72, R81, R82, R86) and an encoder from the same tables. -/
namespace Sys2Proof

/-- A word of one of the three formats of the opcode table (R86). -/
inductive Encoded where
  /-- REQ: a 36-bit request word (R70). -/
  | req (w : Request)
  /-- FRAME16: a received chunk, whose first two bytes tell the frame kind (R81). -/
  | frame (bytes : List Byte)
  /-- CMD16: a 16-bit command code (R82). -/
  | command (code : Half)
  deriving DecidableEq, Repr

/-- Why a word stands for no instruction. Every request word and every command code stands for one (R71, R83). -/
inductive DecodeReject where
  /-- Fewer than two bytes: there is no `{frame[0], frame[1]}` (R86). -/
  | noOpeningPair
  /-- The opening pair is none of the three frame kinds (R81). -/
  | noFrameKind
  /-- The chunk does not fit IBUF (R57). -/
  | chunkTooLong
  deriving DecidableEq, Repr

/-- Bits 35 to 32 of a request (R70). -/
def reqOp (w : Request) : Nat := (w.extractLsb' 32 4).toNat

/-- `imm[31:0]` (R70). -/
def reqImm (w : Request) : Word := w.extractLsb' 0 32

/-- `imm[15:0]`. -/
def reqImm16 (w : Request) : Half := w.extractLsb' 0 16

/-- `imm[7:0]`. -/
def reqImm8 (w : Request) : Byte := w.extractLsb' 0 8

/-- The operation select, all sixteen values assigned (R71). -/
def decodeRequest (w : Request) : Instr :=
  match reqOp w with
  | 0x0 => .obufClear
  | 0x1 => .putU16 (reqImm16 w)
  | 0x2 => .putI16 (reqImm16 w)
  | 0x3 => .putU32 (reqImm w)
  | 0x4 => .putF32 (reqImm w)
  | 0x5 => .putName16 (reqImm16 w)
  | 0x6 => .crcInit
  | 0x7 => .crcByte (reqImm8 w)
  | 0x8 => .crcObuf
  | 0x9 => .frameBegin (reqImm8 w)
  | 0xA => .frameEnd
  | 0xB => .buildCfg2
  | 0xC => .buildData
  | 0xD => .parseCmd
  | 0xE => .getU16 (reqImm16 w)
  | _ => .putU8 (reqImm8 w)

/-- Frame-kind decode of a received chunk (R81, R86). -/
def decodeFrame (p : Params) : List Byte → Except DecodeReject Instr
  | [] => .error .noOpeningPair
  | [_] => .error .noOpeningPair
  | b0 :: b1 :: body =>
    if bodyFits body = false then .error .chunkTooLong
    else if b0 ≠ p.sync then .error .noFrameKind
    else if b1 = p.typeCmd then .ok (.frameCmd body)
    else if b1 = p.typeData then .ok (.frameData body)
    else if b1 = p.typeCfg2 then .ok (.frameCfg2 body)
    else .error .noFrameKind

/-- Command-code decode (R82, R193); the catch-all row applies only when no other matches (R86). -/
def decodeCommand (p : Params) (code : Half) : Instr :=
  if code = p.cmdDisable then .cmdDisable
  else if code = p.cmdEnable then .cmdEnable
  else if code = p.cmdHdr then .cmdSendHdr
  else if code = p.cmdCfg1 then .cmdSendCfg1
  else if code = p.cmdCfg2 then .cmdSendCfg2
  else .cmdOther code

/-- The decoder, total on the words of the three formats. -/
def decode (p : Params) : Encoded → Except DecodeReject Instr
  | .req w => .ok (decodeRequest w)
  | .frame bytes => decodeFrame p bytes
  | .command code => .ok (decodeCommand p code)

/-- A request word from its select and its immediate (R70). -/
def mkRequest (op : BitVec 4) (imm : Word) : Request := op ++ imm

/-- An operand of 16 bits in `imm[15:0]`, the unused bits 0 (R71, R72). -/
def immOfHalf (v : Half) : Word := v.setWidth 32

/-- An operand of 8 bits in `imm[7:0]`, the unused bits 0 (R71, R72). -/
def immOfByte (b : Byte) : Word := b.setWidth 32

/-- The encoder (R71, R81, R82). -/
def encode (p : Params) : Instr → Encoded
  | .obufClear => .req (mkRequest 0x0 0)
  | .putU16 v => .req (mkRequest 0x1 (immOfHalf v))
  | .putI16 v => .req (mkRequest 0x2 (immOfHalf v))
  | .putU32 v => .req (mkRequest 0x3 v)
  | .putF32 w => .req (mkRequest 0x4 w)
  | .putName16 k => .req (mkRequest 0x5 (immOfHalf k))
  | .crcInit => .req (mkRequest 0x6 0)
  | .crcByte b => .req (mkRequest 0x7 (immOfByte b))
  | .crcObuf => .req (mkRequest 0x8 0)
  | .frameBegin t => .req (mkRequest 0x9 (immOfByte t))
  | .frameEnd => .req (mkRequest 0xA 0)
  | .buildCfg2 => .req (mkRequest 0xB 0)
  | .buildData => .req (mkRequest 0xC 0)
  | .parseCmd => .req (mkRequest 0xD 0)
  | .getU16 k => .req (mkRequest 0xE (immOfHalf k))
  | .putU8 b => .req (mkRequest 0xF (immOfByte b))
  | .frameCmd body => .frame (p.sync :: p.typeCmd :: body)
  | .frameData body => .frame (p.sync :: p.typeData :: body)
  | .frameCfg2 body => .frame (p.sync :: p.typeCfg2 :: body)
  | .cmdDisable => .command p.cmdDisable
  | .cmdEnable => .command p.cmdEnable
  | .cmdSendHdr => .command p.cmdHdr
  | .cmdSendCfg1 => .command p.cmdCfg1
  | .cmdSendCfg2 => .command p.cmdCfg2
  | .cmdOther code => .command code

/-- The eight zero bytes that fill an opening pair up to the ten bytes of the shortest command frame (R74): what the table's
16-bit frame rows leave out, as zeros (log 19). -/
def zeroBody : List Byte := [0, 0, 0, 0, 0, 0, 0, 0]

/-- The word of one of the three formats that the table's number `w` of `nbits` bits stands for: more than 16 bits, a request;
16 bits, a frame's opening pair if it is one of the three, else a command code (log 19). -/
def tableWord (p : Params) (nbits w : Nat) : Option Encoded :=
  if 16 < nbits then
    if w < 2 ^ 36 then some (.req (BitVec.ofNat 36 w)) else none
  else if w < 2 ^ 16 then
    let h := BitVec.ofNat 16 w
    let chunk : List Byte := h.extractLsb' 8 8 :: h.extractLsb' 0 8 :: zeroBody
    match decodeFrame p chunk with
    | .ok _ => some (.frame chunk)
    | .error _ => some (.command h)
  else none

/-- The instruction the decoder reads from the table's number `w` of `nbits` bits, under the default parameters (R86). -/
def decodeTableWord (nbits w : Nat) : Option Instr :=
  match tableWord Params.default nbits w with
  | none => none
  | some e =>
    match decode Params.default e with
    | .ok i => some i
    | .error _ => none

end Sys2Proof
end

