-- ==== Sys2Proof/Machine/State.lean ====
section
/-! DEFINITION. The machine's state as plain data (spec 10_state.md R20 to R40), the host's state (45_host_session.md R191 to
R204), the moves of the host, the reasons a step can stop, and the state after reset (R40, 70_reset_and_hazards.md R240). -/
namespace Sys2Proof.Machine

/-- A byte memory: the cells that hold a value, addresses strictly rising (R38, R50). An unlisted address holds no value
(R40), so no entry equals what an unlisted address reads as. -/
abbrev Memory := List Host.Cell

/-- The time input (R26). -/
structure TimeIn where
  soc  : Word
  usec : Word
  deriving DecidableEq, Repr

/-- One phasor of a sample (R27). -/
structure Phasor where
  mag : Word
  ang : Word
  deriving DecidableEq, Repr

/-- The data sample input (R27). -/
structure Sample where
  ph      : List Phasor
  freqDev : Word
  rocof   : Word
  an      : List Word
  deriving DecidableEq, Repr

/-- A session (R191, R192): `Idle`, or `Streaming` with its `last_emit`, which is read only while streaming (log 13). -/
inductive Session where
  | idle
  | streaming (lastEmit : Nat)
  deriving DecidableEq, Repr

/-- The five parse errors (R172, R215). -/
inductive ParseError where
  | tooShort
  | badHeader
  | badLength
  | crcMismatch
  | idMismatch
  deriving DecidableEq, Repr

/-- The three causes of a fault of the block (R34, R216). -/
inductive FaultCause where
  /-- `UnsupportedFormat`, FAULT bit 0 (R217). -/
  | cfgErr
  /-- "allocation failure", FAULT bit 1 (R101, R147). -/
  | ovf
  /-- A request that names what does not exist, FAULT bit 2 (R220). -/
  | rng
  deriving DecidableEq, Repr

/-- How an operation of the block ends (R13). -/
inductive OpOutcome where
  | done
  | error (e : ParseError)
  | fault (c : FaultCause)
  /-- The block is in the fault state: nothing changed (R222; log 6). -/
  | refused
  deriving DecidableEq, Repr

/-- The three classes of a command code (R193). -/
inductive CmdClass where
  | disable
  | enable
  | sendCfg
  deriving DecidableEq, Repr

/-- What the host can do between operations (R60, R211, R205). -/
inductive HostMove where
  /-- Issue a request (R70). -/
  | request (w : Request)
  /-- `IBUF_LOAD` (R57). -/
  | ibufLoad (bs : List Byte)
  /-- `OBUF_READ` (R58). -/
  | obufRead
  /-- Read the register of an index (R35). -/
  | regRead (idx : BitVec 4)
  /-- Write the register of an index (R33, R35). -/
  | regWrite (idx : BitVec 4) (v : Half)
  /-- Present the time and the sample input (R26, R27). -/
  | present (t : TimeIn) (x : Sample)
  /-- The same, from a measurement source that works in degrees (R209). -/
  | presentDegrees (t : TimeIn) (x : Sample)
  /-- Fix the configuration and the parameters and reset the block (R240). -/
  | reset (c : Station) (p : Params)
  /-- A connection is accepted (R191, R210). -/
  | connect
  /-- The connection ends or the transport fails (R191, R208). -/
  | disconnect
  /-- A received chunk: load it, parse it, act on the result (R205 (a)). -/
  | receive (bs : List Byte)
  /-- Act on the command code in CMD (R190, R194, R196). -/
  | act
  /-- One iteration of the control loop at clock `now` with the inbound bytes `rx`, none if empty (R205). -/
  | tick (now : Nat) (rx : List Byte)
  deriving DecidableEq, Repr

/-- Why the machine stops with a fault. The faults of the BLOCK (R216) are no such stop: they are next states in which a bit of
FAULT is set. -/
inductive Fault where
  /-- Raised by an operation or OBUF_READ that would read a byte that holds no value (R38). R266: no run reads one. Safe: the model
  stops where the spec says nothing (log 9). -/
  | noValue
  deriving DecidableEq, Repr

/-- Why a move has no meaning. -/
inductive Refusal where
  /-- An arm of exec that has no meaning yet. Safe. -/
  | notModelled (mnemonic : String)
  /-- Raised by IBUF_LOAD and by receiving a chunk longer than IBUF_CAP (R57, 93 I21). Safe: outside the admitted set. -/
  | chunkTooLong
  /-- Raised by the reset move with a configuration or parameters outside R7 and R8 (93 I20). Safe: outside the admitted set. -/
  | cfgNotAdmitted
  deriving DecidableEq, Repr

/-- The state. -/
@[ext]
structure State where
  /-- CTRL (R33). -/
  ctrl : Half
  /-- STATUS (R31). -/
  status : Half
  /-- FAULT (R34). -/
  fault : Half
  /-- CRC (R21). -/
  crc : Half
  /-- CMD (R22). -/
  cmd : Half
  /-- RDATA (R23). -/
  rdata : Half
  /-- OLEN (R24). -/
  olen : Half
  /-- ILEN (R24). -/
  ilen : Half
  /-- OBUF, the bytes that hold a value (R38). -/
  obuf : Memory
  /-- IBUF, the bytes that hold a value (R38). -/
  ibuf : Memory
  /-- The station configuration, a constant between resets (R6, R28; log 1). -/
  cfg : Station
  /-- The parameters, constant between resets (R7, R28; log 1). -/
  par : Params
  /-- The time input as the host presents it (R26; log 4). -/
  timeIn : Option TimeIn
  /-- The data sample input as the host presents it (R27; log 4). -/
  smpIn : Option Sample
  /-- The model's own count of draws: it indexes the free values (log 4). -/
  draws : Nat
  /-- The session, if a connection is open (R191). -/
  session : Option Session
  /-- The host's clock, in ticks (R201, R204). -/
  now : Nat
  /-- `INTERVAL_DIV` (R204; log 17). -/
  intervalDiv : IntervalDiv
  /-- Ticks of the host's clock in a millisecond (R204; log 17). -/
  ticksPerMs : Nat
  /-- The frames written to the transport, oldest first (R194, R202). -/
  wire : List (List Byte)
  /-- What the last OBUF_READ returned (R58). -/
  hostBytes : List Byte
  /-- What the last register read returned (R35). -/
  hostWord : Half
  /-- How the last operation ended (R13; log 6). -/
  outcome : Option OpOutcome
  /-- The host's moves still to come, oldest first (R30, R60; log 18). -/
  pending : List HostMove
  deriving DecidableEq, Repr

/-- Write CTRL. -/
def State.setCtrl (s : State) (v : Half) : State :=
  { s with ctrl := v }

/-- Write STATUS. -/
def State.setStatus (s : State) (v : Half) : State :=
  { s with status := v }

/-- Write FAULT. -/
def State.setFault (s : State) (v : Half) : State :=
  { s with fault := v }

/-- Write CRC. -/
def State.setCrc (s : State) (v : Half) : State :=
  { s with crc := v }

/-- Write CMD. -/
def State.setCmd (s : State) (v : Half) : State :=
  { s with cmd := v }

/-- Write RDATA. -/
def State.setRdata (s : State) (v : Half) : State :=
  { s with rdata := v }

/-- Write OBUF and OLEN together (R100). -/
def State.setOut (s : State) (m : Memory) (v : Half) : State :=
  { s with obuf := m, olen := v }

/-- Write IBUF and ILEN together (R57). -/
def State.setIn (s : State) (m : Memory) (v : Half) : State :=
  { s with ibuf := m, ilen := v }

/-- Present the two inputs (R26, R27). -/
def State.setInputs (s : State) (t : Option TimeIn) (x : Option Sample) : State :=
  { s with timeIn := t, smpIn := x }

/-- A draw of the inputs: `BUILD_DATA` has sampled what was presented (R26, R154; log 4). -/
def State.takeInputs (s : State) : State :=
  { s with timeIn := none, smpIn := none, draws := s.draws + 1 }

/-- Write the session (R194). -/
def State.setSession (s : State) (o : Option Session) : State :=
  { s with session := o }

/-- Set the host's clock. -/
def State.setNow (s : State) (n : Nat) : State :=
  { s with now := n }

/-- Write one frame to the transport (R194, R202). -/
def State.addWire (s : State) (bs : List Byte) : State :=
  { s with wire := s.wire ++ [bs] }

/-- Record what OBUF_READ returned. -/
def State.setHostBytes (s : State) (bs : List Byte) : State :=
  { s with hostBytes := bs }

/-- Record what a register read returned. -/
def State.setHostWord (s : State) (v : Half) : State :=
  { s with hostWord := v }

/-- Record how an operation ended (R13). -/
def State.setOutcome (s : State) (e : Option OpOutcome) : State :=
  { s with outcome := e }

/-- Write the list of moves to come. -/
def State.setPending (s : State) (q : List HostMove) : State :=
  { s with pending := q }

/-- FAULT after reset release: the result of the configuration check (R40, R217). -/
def faultAtRelease (c : Station) : Half := if c.supported then 0x0000 else 0x0001

/-- The machine right after a first reset with `c` and `p`: the block as R40 says; the host has no session, has sent and received
nothing, presents nothing and has no move to come (log 5). -/
def State.resetWith (c : Station) (p : Params) : State where
  ctrl := 0x0001
  status := 0x0000
  fault := faultAtRelease c
  crc := 0xFFFF
  cmd := 0x0000
  rdata := 0x0000
  olen := 0
  ilen := 0
  obuf := []
  ibuf := []
  cfg := c
  par := p
  timeIn := none
  smpIn := none
  draws := 0
  session := none
  now := 0
  intervalDiv := Config.intervalDiv
  ticksPerMs := Config.clockTicks + 1
  wire := []
  hostBytes := []
  hostWord := 0
  outcome := none
  pending := []

/-- The machine right after reset (R40, R240), with the configuration and parameters of log 2 and log 3. -/
def State.reset : State := State.resetWith Config.station Params.default

end Sys2Proof.Machine
end

