-- ==== Sys2Proof/Machine/Operands.lean ====
section
/-! DEFINITION. Values as bytes and bytes as values (spec 00_scope.md R11, 20_memory.md R51, 30_encoding.md R80), the name field
(41_byte_codec.md R106), the selection of a name (R108), and the CRC functions (42_crc_engine.md R121 to R123). -/
namespace Sys2Proof.Machine

/-- `bytes16(v)` (R11): the most significant byte first. -/
def bytes16 (v : Half) : List Byte := [v.extractLsb' 8 8, v.extractLsb' 0 8]

/-- `bytes32(v)` (R11). -/
def bytes32 (v : Word) : List Byte :=
  [v.extractLsb' 24 8, v.extractLsb' 16 8, v.extractLsb' 8 8, v.extractLsb' 0 8]

/-- `be16(b0, b1)` (R11): `b0` is the most significant byte. -/
def be16 (b0 b1 : Byte) : Half := b0 ++ b1

/-- A count as an unsigned 16-bit field (R79). -/
def countField (n : Nat) : Half := BitVec.ofNat 16 n

/-- `name16(s)` (R106): the first 16 bytes, or all of them and spaces up to 16. -/
def name16 (s : List Byte) : List Byte := (s ++ List.replicate (16 - s.length) 0x20).take 16

/-- The name an index selects (R108): 0 the station, then the phasor channels, then the analog channels; none past the last. -/
def selectName (c : Station) (k : Nat) : Option (List Byte) :=
  if k = 0 then some c.stn
  else if k ≤ c.nph then c.phName[k - 1]?
  else c.anName[k - c.nph - 1]?

/-- One reduction step (R122): the test is on bit 15 before the shift, the exclusive-or after it. -/
def crcBit (r : Half) : Half :=
  if r.getLsbD 15 then (r <<< 1) ^^^ 0x1021 else r <<< 1

/-- `n` reduction steps. -/
def crcBits : Nat → Half → Half
  | 0, r => r
  | n + 1, r => crcBits n (crcBit r)

/-- `crc_byte(r, b)` (R121). -/
def crcByte (r : Half) (b : Byte) : Half := crcBits 8 (r ^^^ ((b.setWidth 16) <<< 8))

/-- The CRC register after the bytes, lowest offset first, from the value `r` (R123, R126 (c)): `crcFrom (crcByte r b) bs` for each byte.
The register is taken apart and put together between two bytes, so that an evaluation goes byte by byte. -/
def crcFrom (r : Half) : List Byte → Half
  | [] => r
  | b :: bs =>
    match crcByte r b with
    | .ofFin x => crcFrom (.ofFin x) bs

/-- `crc16(bs)` (R123): initial value `0xFFFF`, no final exclusive-or. -/
def crc16 (bs : List Byte) : Half := crcFrom 0xFFFF bs

end Sys2Proof.Machine
end

