-- ==== Sys2Proof/Machine/Flags.lean ====
section
/-! DEFINITION. The fields of STATUS, CTRL and FAULT (spec 10_state.md R31 to R34). -/
namespace Sys2Proof.Machine

/-- The code of a parse error in PERR (R172). -/
def perrCode : ParseError → Half
  | .tooShort => 1
  | .badHeader => 2
  | .badLength => 3
  | .crcMismatch => 4
  | .idMismatch => 5

/-- The code of a parse result in PERR: 0 is `OK` (R172). -/
def resultCode : Option ParseError → Half
  | none => 0
  | some e => perrCode e

/-- STATUS as a parse leaves it (R172, R178): PERR, PVALID = 1, CRC_BAD, the reserved bits 0. -/
def parseStatus (res : Option ParseError) (bad : Bool) : Half :=
  resultCode res ||| 0x0008 ||| (if bad then 0x0010 else 0x0000)

/-- `STATUS.PERR` (R31). -/
def statusPerr (v : Half) : Half := v &&& 0x0007

/-- `STATUS.PVALID` (R31). -/
def statusPvalid (v : Half) : Bool := v.getLsbD 3

/-- `STATUS.CRC_BAD` (R31). -/
def statusCrcBad (v : Half) : Bool := v.getLsbD 4

/-- `CTRL.ENFORCE_CRC` (R33). -/
def ctrlEnforce (v : Half) : Bool := v.getLsbD 0

/-- The implemented bits of CTRL, STATUS and FAULT; the others read as 0 (R31, R33, R34). -/
def ctrlMask : Half := 0x0001

/-- See ctrlMask. -/
def statusMask : Half := 0x001F

/-- See ctrlMask. -/
def faultMask : Half := 0x0007

/-- The bit of FAULT a cause sets (R34). -/
def faultBit : FaultCause → Half
  | .cfgErr => 0x0001
  | .ovf => 0x0002
  | .rng => 0x0004

end Sys2Proof.Machine
end

