-- ==== Sys2Proof/Machine/Ops.lean ====
section
/-! DEFINITION. The named operations: the byte memories (spec 00_scope.md R12, 20_memory.md R50 to R57), raising a fault and leaving
it by reset (60_exceptions.md R222, R226, 70_reset_and_hazards.md R240), the append primitive (41_byte_codec.md R100), and how an
operation ends (00_scope.md R13). -/
namespace Sys2Proof.Machine

/-- The byte at an address, none where no byte holds a value (R38). -/
def Memory.read : Memory → Nat → Option Byte
  | [], _ => none
  | (k, b) :: m, a => if k = a then some b else Memory.read m a

/-- Write one byte, the addresses kept rising. -/
def Memory.write : Memory → Nat → Byte → Memory
  | [], a, b => [(a, b)]
  | (k, c) :: m, a, b =>
    if a < k then (a, b) :: (k, c) :: m
    else if a = k then (a, b) :: m
    else (k, c) :: Memory.write m a b

/-- Write bytes from an address on, lowest offset first (R12 `MemWrite`, R100). -/
def Memory.writeBytes (m : Memory) (a : Nat) : List Byte → Memory
  | [] => m
  | b :: bs => Memory.writeBytes (Memory.write m a b) (a + 1) bs

/-- The `n` bytes from an address on (R12 `MemRead`), none if one of them holds no value. -/
def Memory.readBytes (m : Memory) (a : Nat) : Nat → Option (List Byte)
  | 0 => some []
  | n + 1 =>
    match Memory.read m a with
    | none => none
    | some b =>
      match Memory.readBytes m (a + 1) n with
      | none => none
      | some bs => some (b :: bs)

/-- `get_u16(B, k)` (R110, R172). -/
def Memory.getU16 (m : Memory) (k : Nat) : Option Half :=
  match Memory.read m k with
  | none => none
  | some b0 =>
    match Memory.read m (k + 1) with
    | none => none
    | some b1 => some (be16 b0 b1)

/-- A memory in canonical form: addresses strictly rising. -/
abbrev Memory.wf (m : Memory) : Prop := (m.map Prod.fst).Pairwise (· < ·)

/-- A buffer whose valid part is `[0, n)`: exactly the offsets below the length hold a value (R38). -/
abbrev Memory.holds (m : Memory) (n : Nat) : Prop := m.map Prod.fst = List.range n

/-- The bytes of OBUF that a read of it gives: `OBUF[0..OLEN)` (R58). -/
def State.obufBytes (s : State) : Option (List Byte) := s.obuf.readBytes 0 s.olen.toNat

/-- The received bytes `IBUF[0..ILEN)` (R170). -/
def State.ibufBytes (s : State) : Option (List Byte) := s.ibuf.readBytes 0 s.ilen.toNat

/-- Raise a fault (R34, R226): its sticky bit of FAULT is set and nothing else changes; the operation ends. This is the block's
whole exception entry: nothing is saved, no mode changes, control goes nowhere. -/
def raiseFault (c : FaultCause) (s : State) : State := s.setFault (s.fault ||| faultBit c)

/-- Reset of the block with the configuration `c` and the parameters `p`: every register takes its value of R40, no buffer byte
holds a value, and the configuration check of R217 runs (R240). It is the one way out of the fault state (R227). The host's side of
the state stays (R241; log 11). -/
def resetBlock (c : Station) (p : Params) (s : State) : State :=
  { s with
    ctrl := 0x0001, status := 0x0000, fault := faultAtRelease c, crc := 0xFFFF, cmd := 0x0000, rdata := 0x0000,
    olen := 0, ilen := 0, obuf := [], ibuf := [], cfg := c, par := p, outcome := none }

/-- An operation part-way: still going, ended by a raised fault, or stopped by a fault of the model. -/
inductive Ended where
  | going (s : State)
  | raised (c : FaultCause) (s : State)
  | stopped (f : Fault)
  deriving DecidableEq, Repr

/-- Go on with `k` unless the operation has ended; state written before a raise stays written (R12). -/
def Ended.andThen (r : Ended) (k : State → Ended) : Ended :=
  match r with
  | .going s => k s
  | .raised c s => .raised c s
  | .stopped f => .stopped f

/-- End the operation by a fault of the block (R12 `raise`). -/
def raise (c : FaultCause) (s : State) : Ended := .raised c (raiseFault c s)

/-- What the host sees of an operation that has ended (R13). -/
def finish : Ended → Host.Outcome State Fault Refusal
  | .going s => .next (s.setOutcome (some .done))
  | .raised c s => .next (s.setOutcome (some (.fault c)))
  | .stopped f => .fault f

/-- Run an operation unless the block is in the fault state, where every request is refused and nothing of the block changes
(R222; log 6). -/
def operation (body : State → Ended) (s : State) : Host.Outcome State Fault Refusal :=
  if s.fault ≠ 0 then .next (s.setOutcome (some .refused)) else finish (body s)

/-- `Append(bs)` (R100, R101). -/
def append (bs : List Byte) (s : State) : Ended :=
  if s.olen.toNat + bs.length > obufCap then raise .ovf s
  else .going (s.setOut (s.obuf.writeBytes s.olen.toNat bs) (BitVec.ofNat 16 (s.olen.toNat + bs.length)))

/-- A sequence of appends, one field after the other (R140, R263). -/
def appendAll : List (List Byte) → State → Ended
  | [], s => .going s
  | f :: fs, s => (append f s).andThen (appendAll fs)

/-- `OLEN <- 0`: no byte of OBUF holds a value any more (R102, R38; log 10). -/
def clearOut (s : State) : State := s.setOut [] 0

/-- `IBUF_LOAD(bs)` (R57): the whole valid part is replaced (R250). -/
def loadIn (bs : List Byte) (s : State) : State :=
  s.setIn (Memory.writeBytes [] 0 bs) (BitVec.ofNat 16 bs.length)

end Sys2Proof.Machine
end

