-- ==== Sys2Proof/Machine/ByteCodec.lean ====
section
/-! DEFINITION. The Byte Codec operations (spec 41_byte_codec.md). -/
namespace Sys2Proof.Machine

/-- `OBUF_CLEAR` (R102). -/
def execObufClear (s : State) : Host.Outcome State Fault Refusal :=
  operation (fun s => .going (clearOut s)) s

/-- `PUT_U16 v` (R103). -/
def execPutU16 (v : Half) (s : State) : Host.Outcome State Fault Refusal :=
  operation (append (bytes16 v)) s

/-- `PUT_I16 s` (R105): the two's complement bits of the operand. -/
def execPutI16 (v : Half) (s : State) : Host.Outcome State Fault Refusal :=
  operation (append (bytes16 v)) s

/-- `PUT_U32 v` (R107). -/
def execPutU32 (v : Word) (s : State) : Host.Outcome State Fault Refusal :=
  operation (append (bytes32 v)) s

/-- `PUT_F32 w` (R104): the bit pattern, unchanged. -/
def execPutF32 (w : Word) (s : State) : Host.Outcome State Fault Refusal :=
  operation (append (bytes32 w)) s

/-- `PUT_U8 b` (R109). -/
def execPutU8 (b : Byte) (s : State) : Host.Outcome State Fault Refusal :=
  operation (append [b]) s

/-- The body of `PUT_NAME16 k` (R108): the index is checked before the append (R225). -/
def putName (k : Half) (s : State) : Ended :=
  if k.toNat > s.cfg.nph + s.cfg.nan then raise .rng s
  else
    match selectName s.cfg k.toNat with
    | none => raise .rng s
    | some name => append (name16 name) s

/-- `PUT_NAME16 k` (R108). -/
def execPutName16 (k : Half) (s : State) : Host.Outcome State Fault Refusal :=
  operation (putName k) s

/-- The body of `GET_U16 k` (R110). -/
def getHalf (k : Half) (s : State) : Ended :=
  if k.toNat + 2 > s.ilen.toNat then raise .rng s
  else
    match s.ibuf.getU16 k.toNat with
    | none => .stopped .noValue
    | some v => .going (s.setRdata v)

/-- `GET_U16 k` (R110). -/
def execGetU16 (k : Half) (s : State) : Host.Outcome State Fault Refusal :=
  operation (getHalf k) s

end Sys2Proof.Machine
end

