-- ==== Sys2Proof/Machine/CommandParser.lean ====
section
/-! DEFINITION. The Command Frame Parser operation (spec 44_command_parser.md). -/
namespace Sys2Proof.Machine

/-- What a parse leaves: its result, CRC, CMD, and whether the CRCs differed (R172, R182). -/
structure Parsed where
  res : Option ParseError
  crc : Half
  cmd : Half
  bad : Bool
  deriving DecidableEq, Repr

/-- Checks 4 and 5 and the result (R176 to R178), for the declared size `size` that checks 1 to 3 have passed. -/
def parseBody (s : State) (size : Nat) : Option Parsed := do
  let covered ← s.ibuf.readBytes 0 (size - 2)
  let trailing ← s.ibuf.getU16 (size - 2)
  let c := crc16 covered
  let bad := c != trailing
  if bad && ctrlEnforce s.ctrl then
    some ⟨some .crcMismatch, c, s.cmd, bad⟩
  else
    let id ← s.ibuf.getU16 4
    if id ≠ s.cfg.pmuId ∧ id ≠ 0xFFFF then
      some ⟨some .idMismatch, c, s.cmd, bad⟩
    else
      let code ← s.ibuf.getU16 6
      some ⟨none, c, code, bad⟩

/-- The checks in their fixed order (R171, R172); none if a byte read holds no value. -/
def parse (s : State) : Option Parsed :=
  if s.ilen.toNat < 10 then some ⟨some .tooShort, s.crc, s.cmd, false⟩
  else do
    let b0 ← s.ibuf.read 0
    let b1 ← s.ibuf.read 1
    if b0 ≠ s.par.sync ∨ b1 ≠ s.par.typeCmd then
      some ⟨some .badHeader, s.crc, s.cmd, false⟩
    else
      let size ← s.ibuf.getU16 2
      if size.toNat > s.ilen.toNat ∨ size.toNat < 10 then
        some ⟨some .badLength, s.crc, s.cmd, false⟩
      else parseBody s size.toNat

/-- The outcome of a parse (R172): done when the result is OK, else an error. -/
def parseOutcome : Option ParseError → OpOutcome
  | none => .done
  | some e => .error e

/-- The registers a parse writes (R172, R178). -/
def recordParse (r : Parsed) (s : State) : State :=
  (((s.setCrc r.crc).setCmd r.cmd).setStatus (parseStatus r.res r.bad)).setOutcome (some (parseOutcome r.res))

/-- `PARSE_CMD` (R172). It can end in an error besides done, so it is no `operation` of the other families; in the fault state it is
refused like them (R222). -/
def execParseCmd (s : State) : Host.Outcome State Fault Refusal :=
  if s.fault ≠ 0 then .next (s.setOutcome (some .refused))
  else
    match parse s with
    | none => .fault .noValue
    | some r => .next (recordParse r s)

end Sys2Proof.Machine
end

