-- ==== Sys2Proof/Machine/CrcEngine.lean ====
section
/-! DEFINITION. The CRC Engine operations (spec 42_crc_engine.md). -/
namespace Sys2Proof.Machine

/-- `CRC_INIT` (R120). -/
def execCrcInit (s : State) : Host.Outcome State Fault Refusal :=
  operation (fun s => .going (s.setCrc 0xFFFF)) s

/-- `CRC_BYTE b` (R121). -/
def execCrcByte (b : Byte) (s : State) : Host.Outcome State Fault Refusal :=
  operation (fun s => .going (s.setCrc (crcByte s.crc b))) s

/-- `CRC <- crc16(OBUF[0..OLEN))` (R124, R145). -/
def crcOverOut (s : State) : Ended :=
  match s.obufBytes with
  | none => .stopped .noValue
  | some bs => .going (s.setCrc (crc16 bs))

/-- `CRC_OBUF` (R124). -/
def execCrcObuf (s : State) : Host.Outcome State Fault Refusal :=
  operation crcOverOut s

end Sys2Proof.Machine
end

