-- ==== Sys2Proof/Machine/FrameBuilders.lean ====
section
/-! DEFINITION. The Frame Builder operations (spec 43_frame_builders.md). -/
namespace Sys2Proof.Machine

/-- `FrameBegin(t)` (R143): the 6-byte header with the size placeholder 0. -/
def frameBegin (t : Byte) (s : State) : Ended :=
  appendAll [[s.par.sync, t], bytes16 0x0000, bytes16 s.cfg.pmuId] (clearOut s)

/-- `Finalize()` (R145 to R147): size first, then CRC, then append. -/
def finalize (s : State) : Ended :=
  if s.olen.toNat < 4 then raise .rng s
  else if s.olen.toNat + 2 > 65535 then raise .ovf s
  else
    let size : Half := BitVec.ofNat 16 (s.olen.toNat + 2)
    (crcOverOut (s.setOut (s.obuf.writeBytes 2 (bytes16 size)) s.olen)).andThen fun s1 => append (bytes16 s1.crc) s1

/-- `FRAME_BEGIN t` (R143). -/
def execFrameBegin (t : Byte) (s : State) : Host.Outcome State Fault Refusal :=
  operation (frameBegin t) s

/-- `FRAME_END` (R144). -/
def execFrameEnd (s : State) : Host.Outcome State Fault Refusal :=
  operation finalize s

/-- `PHUNIT[i]` (R149): a voltage scale at index 0, a current scale at every other. -/
def phUnit (p : Params) (i : Nat) : Word := if i = 0 then p.phunitV else p.phunitI

/-- The payload fields of the Configuration Frame in the order of R148 and R78. -/
def cfg2Fields (c : Station) (p : Params) : List (List Byte) :=
  [bytes32 c.timeBase, name16 c.stn, bytes16 p.formatWord,
    bytes16 (countField c.nph), bytes16 (countField c.nan), bytes16 0x0000]
  ++ c.phName.map name16
  ++ c.anName.map name16
  ++ (List.range c.nph).map (fun i => bytes32 (phUnit p i))
  ++ (List.range c.nan).map (fun _ => bytes32 p.anunit)
  ++ [bytes16 c.fnom, bytes16 c.dataRate]

/-- The body of `BUILD_CFG2` (R148). -/
def buildCfg2 (s : State) : Ended :=
  ((frameBegin s.par.typeCfg2 s).andThen (appendAll (cfg2Fields s.cfg s.par))).andThen finalize

/-- `BUILD_CFG2` (R148). -/
def execBuildCfg2 (s : State) : Host.Outcome State Fault Refusal :=
  operation buildCfg2 s

/-- The status word of every Data Frame (R77, R153). -/
def statWord : Half := 0xC000

/-- `now_soc` as the block samples it: what is presented, else any value (R26; log 4). -/
def State.soc (s : State) : Word :=
  match s.timeIn with
  | some t => t.soc
  | none => Config.freeSoc s.draws

/-- `now_usec` as the block samples it (R26; log 4): a presented value is copied unchanged, whatever it is. -/
def State.usec (s : State) : Word :=
  match s.timeIn with
  | some t => t.usec
  | none => BitVec.ofNat 32 (Config.freeUsec s.draws).val

/-- A part of a presented sample, none where the host presents none. -/
def Sample.field (x : Sample) : SampleField → Option Word
  | .mag i => x.ph[i]?.map Phasor.mag
  | .ang i => x.ph[i]?.map Phasor.ang
  | .freqDev => some x.freqDev
  | .rocof => some x.rocof
  | .analog j => x.an[j]?

/-- A part of the sample as the block samples it: what is presented, else any value (R27; log 4). -/
def State.sample (s : State) (f : SampleField) : Word :=
  match s.smpIn.bind (fun x => Sample.field x f) with
  | some w => w
  | none => Config.freeSample s.draws f

/-- The payload fields of the Data Frame in the order of R154 and R76, from the inputs of the state. -/
def dataFields (s : State) : List (List Byte) :=
  [bytes32 s.soc, bytes32 s.usec, bytes16 statWord]
  ++ (List.range s.cfg.nph).flatMap (fun i => [bytes32 (s.sample (.mag i)), bytes32 (s.sample (.ang i))])
  ++ [bytes32 (s.sample .freqDev), bytes32 (s.sample .rocof)]
  ++ (List.range s.cfg.nan).map (fun j => bytes32 (s.sample (.analog j)))

/-- The body of `BUILD_DATA` (R154): the inputs are sampled once, at the start. -/
def buildData (s : State) : Ended :=
  ((frameBegin s.par.typeData s.takeInputs).andThen (appendAll (dataFields s))).andThen finalize

/-- `BUILD_DATA` (R154). -/
def execBuildData (s : State) : Host.Outcome State Fault Refusal :=
  operation buildData s

end Sys2Proof.Machine
end

