-- ==== Sys2Proof/Machine/HostSession.lean ====
section
/-! DEFINITION. The host around the block (spec 45_host_session.md): the session state machine, the scheduler, the handling of a
received chunk; and the meanings of the FRAME16 and CMD16 rows of the opcode table over them (log 14, log 15). -/
namespace Sys2Proof.Machine

/-- Classification of a command code (R193). -/
def classify (p : Params) (code : Half) : CmdClass :=
  if code = p.cmdDisable then .disable
  else if code = p.cmdEnable then .enable
  else .sendCfg

/-- Take the built frame with OBUF_READ and write it to the transport (R194, R202). -/
def transmit (s : State) : Host.Outcome State Fault Refusal :=
  match s.obufBytes with
  | none => .fault .noValue
  | some bs => .next ((s.setHostBytes bs).addWire bs)

/-- Send the frame a builder has built, then stream from the host's clock; a builder that did not end done sends nothing and makes
no transition (R248; log 21). -/
def sendThenStream (built : Host.Outcome State Fault Refusal) : Host.Outcome State Fault Refusal :=
  match built with
  | .next s1 =>
    if s1.outcome = some .done then
      match transmit s1 with
      | .next s2 => .next (s2.setSession (some (.streaming s2.now)))
      | other => other
    else .next s1
  | other => other

/-- The action of R194 for a class, on the open session; without a session there is nothing to act on (log 20). -/
def applyClass (k : CmdClass) (s : State) : Host.Outcome State Fault Refusal :=
  match s.session with
  | none => .next s
  | some _ =>
    match k with
    | .disable => .next (s.setSession (some .idle))
    | .enable => .next (s.setSession (some (.streaming s.now)))
    | .sendCfg => sendThenStream (execBuildCfg2 s)

/-- `CMD_DISABLE` (R193, R194). -/
def execCmdDisable (s : State) : Host.Outcome State Fault Refusal := applyClass .disable s

/-- `CMD_ENABLE` (R193, R194). -/
def execCmdEnable (s : State) : Host.Outcome State Fault Refusal := applyClass .enable s

/-- `CMD_SEND_HDR` (R193, R194): a type 2 configuration frame (R161). -/
def execCmdSendHdr (s : State) : Host.Outcome State Fault Refusal := applyClass .sendCfg s

/-- `CMD_SEND_CFG1` (R193, R194): a type 2 configuration frame (R161). -/
def execCmdSendCfg1 (s : State) : Host.Outcome State Fault Refusal := applyClass .sendCfg s

/-- `CMD_SEND_CFG2` (R193, R194). -/
def execCmdSendCfg2 (s : State) : Host.Outcome State Fault Refusal := applyClass .sendCfg s

/-- `CMD_OTHER` (R193): the named permissive policy of R195, the same action as an explicit request whatever the code. -/
def execCmdOther (_code : Half) (s : State) : Host.Outcome State Fault Refusal := applyClass .sendCfg s

/-- The class acted on after a `PARSE_CMD` that ended done (R194); after an error or a refusal, no transition and no response
(R196). -/
def react (s : State) : Host.Outcome State Fault Refusal :=
  if s.outcome = some .done then applyClass (classify s.par s.cmd) s else .next s

/-- A received chunk (R205 (a)): IBUF_LOAD, PARSE_CMD, then R194 or R196. -/
def receiveChunk (bs : List Byte) (s : State) : Host.Outcome State Fault Refusal :=
  if bs.length > ibufCap then .refused .chunkTooLong
  else
    match execParseCmd (loadIn bs s) with
    | .next s1 => react s1
    | other => other

/-- `FRAME_CMD`: a received chunk that opens as a command frame (R74, R81, R205). -/
def execFrameCmd (body : List Byte) (s : State) : Host.Outcome State Fault Refusal :=
  receiveChunk (s.par.sync :: s.par.typeCmd :: body) s

/-- `FRAME_DATA`: a received chunk that opens as a data frame (R76, R81). -/
def execFrameData (body : List Byte) (s : State) : Host.Outcome State Fault Refusal :=
  receiveChunk (s.par.sync :: s.par.typeData :: body) s

/-- `FRAME_CFG2`: a received chunk that opens as a configuration frame (R78, R81). -/
def execFrameCfg2 (body : List Byte) (s : State) : Host.Outcome State Fault Refusal :=
  receiveChunk (s.par.sync :: s.par.typeCfg2 :: body) s

/-- Whether at least one emission interval of `1000 / rate` milliseconds has passed since the last emission (R201, R202, R204), on a
clock of `ticks` ticks a millisecond; without a division for `exact`, with the truncated one for `floor` (log 17). DESIGN CHOICE (log 27):
under `floor` a rate above 1000 truncates the interval to 0, and R202's comparison is taken as it stands, so that an emission is due at
elapsed 0 and a tick that handles a SendCfg command sends a data frame after the configuration frame; R207 says it sends none. -/
def emissionDue (d : IntervalDiv) (ticks rate last now : Nat) : Bool :=
  match d with
  | .exact => decide (last * rate + 1000 * ticks ≤ now * rate)
  | .floor => decide (last + 1000 / rate * ticks ≤ now)

/-- Step (b) of the control loop (R202, R203): one data frame if one is due, and the last emission is now. -/
def schedule (s : State) : Host.Outcome State Fault Refusal :=
  match s.session with
  | some (.streaming last) =>
    if emissionDue s.intervalDiv s.ticksPerMs s.cfg.dataRate.toNat last s.now then sendThenStream (execBuildData s)
    else .next s
  | _ => .next s

end Sys2Proof.Machine
end

