-- ==== Sys2Proof/Machine/Dispatch.lean ====
section
/-! DEFINITION. One arm per constructor of Instr, each one direct call of its meaning. -/
namespace Sys2Proof.Machine

def exec (i : Instr) (s : State) : Host.Outcome State Fault Refusal :=
  match i with
  | .obufClear => Sys2Proof.Machine.execObufClear s
  | .putU16 v => Sys2Proof.Machine.execPutU16 v s
  | .putI16 v => Sys2Proof.Machine.execPutI16 v s
  | .putU32 v => Sys2Proof.Machine.execPutU32 v s
  | .putF32 w => Sys2Proof.Machine.execPutF32 w s
  | .putName16 k => Sys2Proof.Machine.execPutName16 k s
  | .crcInit => Sys2Proof.Machine.execCrcInit s
  | .crcByte b => Sys2Proof.Machine.execCrcByte b s
  | .crcObuf => Sys2Proof.Machine.execCrcObuf s
  | .frameBegin t => Sys2Proof.Machine.execFrameBegin t s
  | .frameEnd => Sys2Proof.Machine.execFrameEnd s
  | .buildCfg2 => Sys2Proof.Machine.execBuildCfg2 s
  | .buildData => Sys2Proof.Machine.execBuildData s
  | .parseCmd => Sys2Proof.Machine.execParseCmd s
  | .getU16 k => Sys2Proof.Machine.execGetU16 k s
  | .putU8 b => Sys2Proof.Machine.execPutU8 b s
  | .frameCmd body => Sys2Proof.Machine.execFrameCmd body s
  | .frameData body => Sys2Proof.Machine.execFrameData body s
  | .frameCfg2 body => Sys2Proof.Machine.execFrameCfg2 body s
  | .cmdDisable => Sys2Proof.Machine.execCmdDisable s
  | .cmdEnable => Sys2Proof.Machine.execCmdEnable s
  | .cmdSendHdr => Sys2Proof.Machine.execCmdSendHdr s
  | .cmdSendCfg1 => Sys2Proof.Machine.execCmdSendCfg1 s
  | .cmdSendCfg2 => Sys2Proof.Machine.execCmdSendCfg2 s
  | .cmdOther code => Sys2Proof.Machine.execCmdOther code s

end Sys2Proof.Machine
end

