-- ==== Sys2Proof/Machine/HostActions.lean ====
section
/-! DEFINITION. The host's actions on the block that are no operations (spec 10_state.md R26, R27, R33, R35, 20_memory.md R57, R58,
45_host_session.md R191, R208, R209, 70_reset_and_hazards.md R240). -/
namespace Sys2Proof.Machine

/-- `IBUF_LOAD(bs)` (R57); a longer chunk is refused. -/
def hostIbufLoad (bs : List Byte) (s : State) : Host.Outcome State Fault Refusal :=
  if bs.length > ibufCap then .refused .chunkTooLong else .next (loadIn bs s)

/-- `OBUF_READ()` (R58). -/
def hostObufRead (s : State) : Host.Outcome State Fault Refusal :=
  match s.obufBytes with
  | none => .fault .noValue
  | some bs => .next (s.setHostBytes bs)

/-- The value of the register of an index (R35); reserved bits and reserved indices read as 0 (R31, R33, R34). -/
def readRegister (s : State) (idx : BitVec 4) : Half :=
  match idx.toNat with
  | 0 => s.ctrl &&& ctrlMask
  | 1 => s.status &&& statusMask
  | 2 => s.fault &&& faultMask
  | 3 => s.crc
  | 4 => s.cmd
  | 5 => s.rdata
  | 6 => s.olen
  | 7 => s.ilen
  | _ => 0

/-- A host register read: no side effect on the block (R55). -/
def hostRegRead (idx : BitVec 4) (s : State) : Host.Outcome State Fault Refusal :=
  .next (s.setHostWord (readRegister s idx))

/-- A host register write (R35): CTRL takes its implemented bit, writes to every other index are ignored. -/
def hostRegWrite (idx : BitVec 4) (v : Half) (s : State) : Host.Outcome State Fault Refusal :=
  .next (if idx = 0 then s.setCtrl (v &&& ctrlMask) else s)

/-- Present the inputs of the next `BUILD_DATA` (R26, R27). -/
def hostPresent (t : TimeIn) (x : Sample) (s : State) : Host.Outcome State Fault Refusal :=
  .next (s.setInputs (some t) (some x))

/-- A sample with its angles converted from degrees to radians (R209). -/
def toRadians (x : Sample) : Sample :=
  { x with ph := x.ph.map (fun q => { q with ang := Config.deg2rad q.ang }) }

/-- Present the inputs, from a measurement source that works in degrees (R209). -/
def hostPresentDegrees (t : TimeIn) (x : Sample) (s : State) : Host.Outcome State Fault Refusal :=
  hostPresent t (toRadians x) s

/-- Fix the configuration and the parameters and reset the block (R240); what R7 and R8 do not admit is refused. -/
def hostReset (c : Station) (p : Params) (s : State) : Host.Outcome State Fault Refusal :=
  if c.admitted && p.admitted then .next (resetBlock c p s) else .refused .cfgNotAdmitted

/-- A connection is accepted: a session in Idle is created (R191, R192), unless one is open (R210) or FAULT is not 0 (R217, R243). -/
def hostConnect (s : State) : Host.Outcome State Fault Refusal :=
  .next (if s.session = none ∧ s.fault = 0 then s.setSession (some .idle) else s)

/-- The connection ends or the transport fails: the session is destroyed, the block is untouched (R208, R221). -/
def hostDisconnect (s : State) : Host.Outcome State Fault Refusal :=
  .next (s.setSession none)

end Sys2Proof.Machine
end

