-- ==== Sys2Proof/Machine/Fetch.lean ====
section
/-! DEFINITION. How a move of the host becomes instructions (spec 10_state.md R30, 30_encoding.md R70, R81, R82,
45_host_session.md R190, R196, R205), and where a word of the opcode table is placed so that step runs it (log 18, log 19). -/
namespace Sys2Proof.Machine

/-- A request word is decoded and run (R70, R71). -/
def runRequest (w : Request) (s : State) : Host.Outcome State Fault Refusal :=
  exec (decodeRequest w) s

/-- A received chunk is decoded by its opening pair and run; a chunk of no frame kind takes the same path of R205 (a) (R81). -/
def runReceive (bs : List Byte) (s : State) : Host.Outcome State Fault Refusal :=
  match decodeFrame s.par bs with
  | .ok i => exec i s
  | .error _ => receiveChunk bs s

/-- Whether the host may act on CMD (R22, R190, R211, R249): no fault, a parse has ended, and its result is OK. -/
def mayAct (s : State) : Bool :=
  s.fault == 0 && statusPvalid s.status && statusPerr s.status == 0

/-- The host acts on the command code in CMD; after a parse error it makes no transition (R194, R196). -/
def runAct (s : State) : Host.Outcome State Fault Refusal :=
  if mayAct s then exec (decodeCommand s.par s.cmd) s else .next s

/-- One iteration of the control loop (R205): (a) the inbound bytes, if any, then (b) the scheduler. It runs within a session. -/
def runTick (now : Nat) (rx : List Byte) (s : State) : Host.Outcome State Fault Refusal :=
  match (s.setNow now).session with
  | none => .next (s.setNow now)
  | some _ =>
    match (if rx = [] then .next (s.setNow now) else runReceive rx (s.setNow now)) with
    | .next s1 => schedule s1
    | other => other

/-- One move of the host. -/
def runMove (m : HostMove) (s : State) : Host.Outcome State Fault Refusal :=
  match m with
  | .request w => runRequest w s
  | .ibufLoad bs => hostIbufLoad bs s
  | .obufRead => hostObufRead s
  | .regRead idx => hostRegRead idx s
  | .regWrite idx v => hostRegWrite idx v s
  | .present t x => hostPresent t x s
  | .presentDegrees t x => hostPresentDegrees t x s
  | .reset c p => hostReset c p s
  | .connect => hostConnect s
  | .disconnect => hostDisconnect s
  | .receive bs => runReceive bs s
  | .act => runAct s
  | .tick now rx => runTick now rx s

/-- The next move is taken and made; with none to come the block does nothing (R233; log 18). -/
def fetchAndRun (s : State) : Host.Outcome State Fault Refusal :=
  match s.pending with
  | [] => .next s
  | m :: rest => runMove m (s.setPending rest)

/-- A session for a received frame or a command code to be handled in: the open one, else a new one in Idle (R191, R192). -/
def withSession (s : State) : State :=
  match s.session with
  | none => s.setSession (some .idle)
  | some _ => s

/-- A word placed where the next step takes it: a request or a received chunk at the head of the moves; a command code in CMD, with
STATUS as a parse that accepted it leaves it, and the host's move to act on it (log 19). -/
def placeEncoded (e : Encoded) (s : State) : State :=
  match e with
  | .req w => s.setPending (.request w :: s.pending)
  | .frame bytes => (withSession s).setPending (.receive bytes :: s.pending)
  | .command code => ((((withSession s).setCmd code).setStatus (parseStatus none false))).setPending (.act :: s.pending)

/-- The table's number `w` of `nbits` bits, placed; a number that stands for no word changes nothing. The frame's opening pair and
the command code are matched under the parameters of the state (R86). -/
def placeTableWord (s : State) (nbits w : Nat) : State :=
  match tableWord s.par nbits w with
  | none => s
  | some e => placeEncoded e s

end Sys2Proof.Machine
end

