-- ==== Sys2Proof/Machine/Step.lean ====
section
/-! DEFINITION. One step of the machine: the host's next move (spec 20_memory.md R60, 70_reset_and_hazards.md R257). -/
namespace Sys2Proof.Machine

/-- One step. -/
def step (s : State) : Host.Outcome State Fault Refusal := fetchAndRun s

/-- The state with a word of the opcode table placed so that the very next step runs it (log 18, log 19). -/
def State.withFetchWord (s : State) (nbits w : Nat) : State := placeTableWord s nbits w

end Sys2Proof.Machine
end

