-- ==== Sys2Proof/Safety.lean ====
section
/-! DEFINITION. What claims are stated in: the states a run can reach (spec 10_state.md R31 to R38, 60_exceptions.md R222), whole
frames (43_frame_builders.md R160), and the tables of the spec written a second time, over byte lists and without the machine: a
frame's bytes (30_encoding.md R73, R76, R78) and the result of a parse (44_command_parser.md R182). -/
namespace Sys2Proof.Machine

/-- The values STATUS takes (R31, R182): 0 before any parse; PVALID with PERR 0 to 5; CRC_BAD with OK, IdMismatch, and always with
CrcMismatch. -/
def legalStatus : List Half :=
  [0x0000, 0x0008, 0x0009, 0x000A, 0x000B, 0x000D, 0x0018, 0x001C, 0x001D]

/-- The values FAULT takes (R222). -/
def legalFault : List Half := [0x0000, 0x0001, 0x0002, 0x0004]

/-- The buffers hold exactly their valid parts (R38). -/
abbrev State.buffersHold (s : State) : Prop :=
  s.obuf.holds s.olen.toNat ∧ s.ibuf.holds s.ilen.toNat

/-- The invariant of every run: the buffers hold exactly their valid parts; the reserved bits of CTRL, STATUS and FAULT are 0 and the
fields hold legal values; CFG_ERR is set exactly when the configuration's format is unsupported; the configuration and the parameters
are admitted. -/
abbrev State.Inv (s : State) : Prop :=
  s.buffersHold ∧ s.ctrl ∈ ([0x0000, 0x0001] : List Half) ∧ s.status ∈ legalStatus ∧ s.fault ∈ legalFault
    ∧ (s.fault = 0x0001 ↔ s.cfg.supported = false) ∧ s.cfg.admitted = true ∧ s.par.admitted = true

/-- A whole frame (R73, R160): the size field read back is the length of the frame, and the CRC over all bytes but the last two is the
last two bytes, read big-endian. -/
abbrev wholeFrame (f : List Byte) : Prop :=
  ∃ b0 b1 s0 s1 : Byte, ∃ payload : List Byte, ∃ c0 c1 : Byte,
    f = [b0, b1, s0, s1] ++ payload ++ [c0, c1]
      ∧ (be16 s0 s1).toNat = f.length
      ∧ crc16 ([b0, b1, s0, s1] ++ payload) = be16 c0 c1

/-- A frame of the common form (R73): header with the final size, payload, CRC over all of it. -/
def frameOf (sync type : Byte) (pmuId : Half) (payload : List Byte) : List Byte :=
  let covered := [sync, type] ++ bytes16 (countField (payload.length + 8)) ++ bytes16 pmuId ++ payload
  covered ++ bytes16 (crc16 covered)

/-- The whole Configuration Frame type 2 of a configuration (R78). -/
def cfg2Frame (c : Station) (p : Params) : List Byte :=
  frameOf p.sync p.typeCfg2 c.pmuId
    (bytes32 c.timeBase ++ name16 c.stn ++ bytes16 p.formatWord
      ++ bytes16 (countField c.phName.length) ++ bytes16 (countField c.anName.length) ++ [0x00, 0x00]
      ++ c.phName.flatMap name16 ++ c.anName.flatMap name16
      ++ (List.range c.phName.length).flatMap (fun i => bytes32 (if i = 0 then p.phunitV else p.phunitI))
      ++ (List.range c.anName.length).flatMap (fun _ => bytes32 p.anunit)
      ++ bytes16 c.fnom ++ bytes16 c.dataRate)

/-- The whole Data Frame of a configuration, a time and a sample that has a phasor and an analog value for every channel (R76). -/
def dataFrame (c : Station) (p : Params) (t : TimeIn) (x : Sample) : List Byte :=
  frameOf p.sync p.typeData c.pmuId
    (bytes32 t.soc ++ bytes32 t.usec ++ [0xC0, 0x00]
      ++ x.ph.flatMap (fun q => bytes32 q.mag ++ bytes32 q.ang)
      ++ bytes32 x.freqDev ++ bytes32 x.rocof ++ x.an.flatMap bytes32)

/-- The 16-bit field at an offset of received bytes, big-endian (R80); only used where the bytes are there. -/
def fieldAt (bs : List Byte) (k : Nat) : Half := be16 (bs.getD k 0) (bs.getD (k + 1) 0)

/-- The table of R182 over the received bytes: what a parse leaves, from CRC and CMD before it. The first matching row decides. -/
def parseTable (p : Params) (pmuId : Half) (enforce : Bool) (crc cmd : Half) (bs : List Byte) : Parsed :=
  let size := (fieldAt bs 2).toNat
  let c := crc16 (bs.take (size - 2))
  let bad := decide (c ≠ fieldAt bs (size - 2))
  if bs.length < 10 then ⟨some .tooShort, crc, cmd, false⟩
  else if bs.getD 0 0 ≠ p.sync ∨ bs.getD 1 0 ≠ p.typeCmd then ⟨some .badHeader, crc, cmd, false⟩
  else if size < 10 ∨ bs.length < size then ⟨some .badLength, crc, cmd, false⟩
  else if bad = true ∧ enforce = true then ⟨some .crcMismatch, c, cmd, true⟩
  else if fieldAt bs 4 ≠ pmuId ∧ fieldAt bs 4 ≠ 0xFFFF then ⟨some .idMismatch, c, cmd, bad⟩
  else ⟨none, c, fieldAt bs 6, bad⟩

/-- STATUS after a parse (R31, R172): the error's number, 8 for PVALID, 16 for CRC_BAD; the reserved bits 0. -/
def tableStatus (res : Option ParseError) (bad : Bool) : Half :=
  (match res with
    | none => 0x0008
    | some .tooShort => 0x0009
    | some .badHeader => 0x000A
    | some .badLength => 0x000B
    | some .crcMismatch => 0x000C
    | some .idMismatch => 0x000D) + (if bad then 0x0010 else 0x0000)

/-- Whether a move is the reset of the block. -/
def HostMove.isReset : HostMove → Bool
  | .reset _ _ => true
  | _ => false

/-- The instruction appends exactly `bs` to OBUF wherever they fit, and changes nothing else (R100): it completes; OLEN rises by the
number of bytes; each new byte stands at its offset from the old OLEN; every other byte of OBUF reads as before. -/
abbrev appendsBytes (i : Instr) (bs : List Byte) : Prop :=
  ∀ s : State, s.fault = 0 → s.olen.toNat + bs.length ≤ 65535 →
    ∃ t, exec i s = .next t ∧ t.olen.toNat = s.olen.toNat + bs.length
      ∧ (∀ a, t.obuf.read a =
          if s.olen.toNat ≤ a ∧ a < s.olen.toNat + bs.length then bs[a - s.olen.toNat]? else s.obuf.read a)
      ∧ t = { s with obuf := t.obuf, olen := t.olen, outcome := some .done }

/-- The instruction, which would append `n` bytes, faults where they do not fit, and changes FAULT only (R101). -/
abbrev overflowsPast (i : Instr) (n : Nat) : Prop :=
  ∀ s : State, s.fault = 0 → 65535 < s.olen.toNat + n →
    exec i s = .next { s with fault := 0x0002, outcome := some (.fault .ovf) }

/-- Instructions one after the other, from an outcome on; a fault or a refusal ends them. -/
def execFrom : List Instr → Host.Outcome State Fault Refusal → Host.Outcome State Fault Refusal
  | [], o => o
  | i :: is, .next s => execFrom is (exec i s)
  | _ :: _, .fault f => .fault f
  | _ :: _, .refused r => .refused r

/-- The length of the received chunk a move brings, if it brings one. -/
def HostMove.chunkLength : HostMove → Nat
  | .ibufLoad bs => bs.length
  | .receive bs => bs.length
  | .tick _ rx => rx.length
  | _ => 0

/-- The moves the spec admits (R8, R57): no chunk longer than IBUF_CAP, no reset with a configuration or parameters outside R7, R8. -/
def HostMove.admitted (m : HostMove) : Bool :=
  decide (m.chunkLength ≤ ibufCap)
    && (match m with
      | .reset c p => c.admitted && p.admitted
      | _ => true)

end Sys2Proof.Machine
end

