-- ==== Sys2Proof/Certificates/Slice0/Obligations.lean ====
section
/-! DEFINITION. The statements for the provers. Rules R<n> are those of spec/; a log entry is a file of notes/assumptions/. -/
open Sys2Proof Sys2Proof.Machine

/-! ### Words, decoding, one step -/

/-- R60, R70, R81, R190: when the host's next move is a request, a received frame of a known kind, or to act on an accepted command
code, one step is exec of the instruction the decoder reads from it, at the state with that move taken; an act after a parse error makes
no transition (R196); with no move to come the block does nothing (R233). Two things are the model's choice: that an act in the fault
state or before any parse only takes the move (log 15, unsafe for a host that breaks its duties of R211 and R249, by which it makes no
such act), and that moves come from a list in State (log 18). -/
def Obligations.StepRunsDecodedInstruction : Prop :=
  (∀ (s : State) (w : Request) (rest : List HostMove), s.pending = .request w :: rest →
      step s = exec (decodeRequest w) (s.setPending rest))
  ∧ (∀ (s : State) (bs : List Byte) (rest : List HostMove) (i : Instr), s.pending = .receive bs :: rest →
      decodeFrame s.par bs = .ok i → step s = exec i (s.setPending rest))
  ∧ (∀ (s : State) (rest : List HostMove), s.pending = .act :: rest →
      step s = if s.fault = 0 ∧ s.status.getLsbD 3 = true ∧ s.status &&& 0x0007 = 0
        then exec (decodeCommand s.par s.cmd) (s.setPending rest) else .next (s.setPending rest))
  ∧ (∀ s : State, s.pending = [] → step s = .next s)

/-- R71, R81, R82, R86: words written out from the spec's encodings decode to the instructions they stand for. -/
def Obligations.SpecWordsDecode : Prop :=
  decodeRequest 0x10000000A = .putU16 0x000A ∧ decodeRequest 0x7ABCDEF01 = .crcByte 0x01
  ∧ decodeRequest 0x900000041 = .frameBegin 0x41 ∧ decodeRequest 0xD00000000 = .parseCmd
  ∧ decodeRequest 0xE00000009 = .getU16 9 ∧ decodeRequest 0xF000000AA = .putU8 0xAA
  ∧ decodeFrame Params.default [0xAA, 0x41, 0x00] = .ok (.frameCmd [0x00])
  ∧ decodeCommand Params.default 0x0002 = .cmdEnable ∧ decodeCommand Params.default 0x0006 = .cmdOther 0x0006

/-- R70, R71, R81, R82: for every admitted parameter set, decoding the encoding of any well-formed instruction of the three formats
gives it back, every operand at every value. -/
def Obligations.DecodeOfEncodeIsIdentity : Prop :=
  ∀ (p : Params) (i : Instr), p.admitted = true → i.wellFormed p = true → decode p (encode p i) = .ok i

/-- R81, R82, R86: whatever word the decoder accepts, the instruction is well formed and its own encoding decodes to it; a received
frame or a command code is moreover the encoding itself. -/
def Obligations.DecodedInstructionsReadBack : Prop :=
  ∀ (p : Params) (e : Encoded) (i : Instr), decode p e = .ok i →
    i.wellFormed p = true ∧ decode p (encode p i) = .ok i
      ∧ ((∃ bs, e = .frame bs) ∨ (∃ c, e = .command c) → encode p i = e)

/-- R72: two requests of the same select that agree on the bits of imm that R71 names for it are the same instruction. -/
def Obligations.UnusedImmediateBitsIgnored : Prop :=
  ∀ (op : BitVec 4) (imm imm' : Word),
    (op ∈ ([0x0, 0x6, 0x8, 0xA, 0xB, 0xC, 0xD] : List (BitVec 4)) →
      decodeRequest (op ++ imm) = decodeRequest (op ++ imm'))
    ∧ (op ∈ ([0x1, 0x2, 0x5, 0xE] : List (BitVec 4)) → imm.extractLsb' 0 16 = imm'.extractLsb' 0 16 →
      decodeRequest (op ++ imm) = decodeRequest (op ++ imm'))
    ∧ (op ∈ ([0x7, 0x9, 0xF] : List (BitVec 4)) → imm.extractLsb' 0 8 = imm'.extractLsb' 0 8 →
      decodeRequest (op ++ imm) = decodeRequest (op ++ imm'))

/-! ### Reset and the fault state -/

/-- R40, R217, R240: reset, from any state, leaves the registers as the table of R40 says, no byte of either buffer holding a value, and
FAULT the result of the configuration check; a first reset leaves the same. -/
def Obligations.ResetLeavesTableValues : Prop :=
  ∀ (c : Station) (p : Params) (s : State), c.admitted = true → p.admitted = true →
    ∃ t, runMove (.reset c p) s = .next t
      ∧ ∀ u ∈ [t, State.resetWith c p], u.crc = 0xFFFF ∧ u.cmd = 0x0000 ∧ u.rdata = 0x0000 ∧ u.olen = 0 ∧ u.ilen = 0
        ∧ u.ctrl = 0x0001 ∧ u.status = 0x0000
        ∧ u.fault = (if c.fmtNumeric ≠ .float ∨ c.fmtPhasor ≠ .polar then 0x0001 else 0x0000)
        ∧ (∀ a, u.obuf.read a = none) ∧ (∀ a, u.ibuf.read a = none)

/-- R222: in the fault state every request, whatever it is, is refused: every register, buffer byte and flag is as before (the model
records the refusal, log 6). -/
def Obligations.FaultStateRefusesRequests : Prop :=
  ∀ (i : Instr) (s : State), i.isRequest = true → s.fault ≠ 0 → exec i s = .next { s with outcome := some .refused }

/-- R34, R222, R227: a bit of FAULT once 1 stays 1 until reset: no step but a reset changes FAULT when it is not 0. -/
def Obligations.FaultStaysUntilReset : Prop :=
  ∀ (s t : State) (m : HostMove) (rest : List HostMove), s.pending = m :: rest → m.isReset = false → s.fault ≠ 0 →
    step s = .next t → t.fault = s.fault

/-! ### Byte Codec -/

/-- R102: OBUF_CLEAR. -/
def Obligations.ObufClearEmptiesOutput : Prop :=
  (∀ imm : Word, decodeRequest ((0x0 : BitVec 4) ++ imm) = .obufClear)
  ∧ ∀ s : State, s.fault = 0 → ∃ t, exec .obufClear s = .next t ∧ t.olen = 0 ∧ (∀ a, t.obuf.read a = none)
      ∧ t = { s with obuf := t.obuf, olen := t.olen, outcome := some .done }

/-- R103, R104, R105, R107, R109: each numeric append, named by its select, appends its operand's bytes, most significant first, and
changes nothing else; where they do not fit, FAULT.OVF is set and nothing else changes. -/
def Obligations.PutAppendsBigEndian : Prop :=
  (∀ imm : Word, ∃ v : Half, v = imm.extractLsb' 0 16
      ∧ decodeRequest ((0x1 : BitVec 4) ++ imm) = .putU16 v ∧ decodeRequest ((0x2 : BitVec 4) ++ imm) = .putI16 v
      ∧ appendsBytes (.putU16 v) [v.extractLsb' 8 8, v.extractLsb' 0 8] ∧ overflowsPast (.putU16 v) 2
      ∧ appendsBytes (.putI16 v) [v.extractLsb' 8 8, v.extractLsb' 0 8] ∧ overflowsPast (.putI16 v) 2)
  ∧ (∀ v : Word, decodeRequest ((0x3 : BitVec 4) ++ v) = .putU32 v ∧ decodeRequest ((0x4 : BitVec 4) ++ v) = .putF32 v
      ∧ appendsBytes (.putU32 v) [v.extractLsb' 24 8, v.extractLsb' 16 8, v.extractLsb' 8 8, v.extractLsb' 0 8]
      ∧ overflowsPast (.putU32 v) 4
      ∧ appendsBytes (.putF32 v) [v.extractLsb' 24 8, v.extractLsb' 16 8, v.extractLsb' 8 8, v.extractLsb' 0 8]
      ∧ overflowsPast (.putF32 v) 4)
  ∧ (∀ imm : Word, ∃ b : Byte, b = imm.extractLsb' 0 8 ∧ decodeRequest ((0xF : BitVec 4) ++ imm) = .putU8 b
      ∧ appendsBytes (.putU8 b) [b] ∧ overflowsPast (.putU8 b) 1)

/-- R219: whatever appends, PUT_NAME16 of an index that names a name and FRAME_END included, changes FAULT.OVF only where it would pass
65535. -/
def Obligations.OverflowChangesFaultOnly : Prop :=
  (∀ v : Half, overflowsPast (.putU16 v) 2 ∧ overflowsPast (.putI16 v) 2)
  ∧ (∀ v : Word, overflowsPast (.putU32 v) 4 ∧ overflowsPast (.putF32 v) 4)
  ∧ (∀ b : Byte, overflowsPast (.putU8 b) 1)
  ∧ (∀ (k : Half) (s : State), s.fault = 0 → k.toNat ≤ s.cfg.phName.length + s.cfg.anName.length →
      65535 < s.olen.toNat + 16 →
      exec (.putName16 k) s = .next { s with fault := 0x0002, outcome := some (.fault .ovf) })
  ∧ overflowsPast .frameEnd 2

/-- R220: the three requests that name what does not exist change FAULT.RNG only. -/
def Obligations.RangeErrorChangesFaultOnly : Prop :=
  ∀ s : State, s.fault = 0 →
    (∀ k : Half, s.ilen.toNat < k.toNat + 2 →
      exec (.getU16 k) s = .next { s with fault := 0x0004, outcome := some (.fault .rng) })
    ∧ (∀ k : Half, s.cfg.phName.length + s.cfg.anName.length < k.toNat →
      exec (.putName16 k) s = .next { s with fault := 0x0004, outcome := some (.fault .rng) })
    ∧ (s.olen.toNat < 4 → exec .frameEnd s = .next { s with fault := 0x0004, outcome := some (.fault .rng) })

/-- R106: the name field is always 16 bytes: those of the name, cut at 16, then spaces. -/
def Obligations.NameFieldPadsAndCuts : Prop :=
  ∀ s : List Byte, (name16 s).length = 16
    ∧ (16 ≤ s.length → name16 s = s.take 16)
    ∧ (s.length < 16 → name16 s = s ++ List.replicate (16 - s.length) 0x20)

/-- R108: PUT_NAME16 appends the name16 of the selected name: index 0 the station name, 1..NPH a phasor name, NPH+1..NPH+NAN an analog
name; an index past the last faults with RNG, whatever OLEN is, and a name that does not fit with OVF. -/
def Obligations.PutNameAppendsSelected : Prop :=
  (∀ imm : Word, decodeRequest ((0x5 : BitVec 4) ++ imm) = .putName16 (imm.extractLsb' 0 16))
  ∧ ∀ (k : Half) (s : State), s.fault = 0 →
    (s.cfg.phName.length + s.cfg.anName.length < k.toNat →
      exec (.putName16 k) s = .next { s with fault := 0x0004, outcome := some (.fault .rng) })
    ∧ (k.toNat ≤ s.cfg.phName.length + s.cfg.anName.length →
      (65535 < s.olen.toNat + 16 →
        exec (.putName16 k) s = .next { s with fault := 0x0002, outcome := some (.fault .ovf) })
      ∧ (s.olen.toNat + 16 ≤ 65535 →
        ∃ (name : List Byte) (t : State),
          (if k.toNat = 0 then name = s.cfg.stn
            else if k.toNat ≤ s.cfg.phName.length then s.cfg.phName[k.toNat - 1]? = some name
            else s.cfg.anName[k.toNat - s.cfg.phName.length - 1]? = some name)
          ∧ exec (.putName16 k) s = .next t ∧ t.olen.toNat = s.olen.toNat + 16
          ∧ (∀ a, t.obuf.read a = if s.olen.toNat ≤ a ∧ a < s.olen.toNat + 16 then (name16 name)[a - s.olen.toNat]?
              else s.obuf.read a)
          ∧ t = { s with obuf := t.obuf, olen := t.olen, outcome := some .done }))

/-- R110: GET_U16 leaves the big-endian 16-bit value at its offset in RDATA where both bytes are valid; else it faults with RNG and
changes FAULT only. -/
def Obligations.GetHalfReadsInput : Prop :=
  (∀ imm : Word, decodeRequest ((0xE : BitVec 4) ++ imm) = .getU16 (imm.extractLsb' 0 16))
  ∧ (∀ (k : Half) (s : State), s.fault = 0 → s.buffersHold → k.toNat + 2 ≤ s.ilen.toNat →
      ∃ b0 b1 : Byte, s.ibuf.read k.toNat = some b0 ∧ s.ibuf.read (k.toNat + 1) = some b1
        ∧ exec (.getU16 k) s = .next { s with rdata := b0 ++ b1, outcome := some .done })
  ∧ (∀ (k : Half) (s : State), s.fault = 0 → s.ilen.toNat < k.toNat + 2 →
      exec (.getU16 k) s = .next { s with fault := 0x0004, outcome := some (.fault .rng) })

/-! ### CRC Engine -/

/-! ### CRC Engine -/

/-- R120, R121, R122: CRC_INIT and CRC_BYTE, named by their selects: the byte meets the top half of the register, then eight times shift left and, if the bit
lost was 1, exclusive-or 0x1021. -/
def Obligations.CrcInitAndByteUpdateRegister : Prop :=
  (∀ imm : Word, decodeRequest ((0x6 : BitVec 4) ++ imm) = .crcInit
    ∧ decodeRequest ((0x7 : BitVec 4) ++ imm) = .crcByte (imm.extractLsb' 0 8))
  ∧ ∀ s : State, s.fault = 0 →
    exec .crcInit s = .next { s with crc := 0xFFFF, outcome := some .done }
    ∧ ∀ b : Byte, exec (.crcByte b) s =
        .next { s with
          crc := (fun r : Half => if r.msb then (r <<< 1) ^^^ 0x1021 else r <<< 1)^[8] (s.crc ^^^ (b ++ (0 : Byte)))
          outcome := some .done }

/-- R124: CRC_OBUF leaves in CRC the CRC of the whole output buffer, folded byte by byte from 0xFFFF, lowest offset first. -/
def Obligations.CrcObufCoversOutput : Prop :=
  (∀ imm : Word, decodeRequest ((0x8 : BitVec 4) ++ imm) = .crcObuf)
  ∧ ∀ s : State, s.fault = 0 → s.buffersHold →
    ∃ bs : List Byte, bs.length = s.olen.toNat ∧ (∀ a, s.obuf.read a = bs[a]?)
      ∧ exec .crcObuf s = .next { s with crc := bs.foldl crcByte 0xFFFF, outcome := some .done }

/-- R123: CRC_INIT and then a CRC_BYTE for each byte leave the CRC of the bytes. -/
def Obligations.HandAccumulatedCrc : Prop :=
  ∀ (bs : List Byte) (s : State), s.fault = 0 →
    execFrom (.crcInit :: bs.map Instr.crcByte) (.next s) = .next { s with crc := crc16 bs, outcome := some .done }

/-- R126 (d): running the CRC over bytes and their own CRC gives zero. -/
def Obligations.CrcResidueIsZero : Prop :=
  ∀ bs : List Byte, crc16 (bs ++ [(crc16 bs).extractLsb' 8 8, (crc16 bs).extractLsb' 0 8]) = 0

/-! ### Frame Builders -/

/-- R143: FRAME_BEGIN leaves exactly the 6-byte header with the size placeholder 0. -/
def Obligations.FrameBeginOpensFrame : Prop :=
  (∀ imm : Word, decodeRequest ((0x9 : BitVec 4) ++ imm) = .frameBegin (imm.extractLsb' 0 8))
  ∧ ∀ (y : Byte) (s : State), s.fault = 0 →
    ∃ t, exec (.frameBegin y) s = .next t ∧ t.olen = 6
      ∧ (∀ a, t.obuf.read a =
          [s.par.sync, y, 0x00, 0x00, s.cfg.pmuId.extractLsb' 8 8, s.cfg.pmuId.extractLsb' 0 8][a]?)
      ∧ t = { s with obuf := t.obuf, olen := t.olen, outcome := some .done }

/-- R144 to R147: FRAME_END overwrites offsets 2 and 3 with the final length, then appends the CRC over all of it, and leaves that CRC in
the register; without a size field it faults with RNG, of a frame that would pass 65535 bytes with OVF, and then only FAULT changes. -/
def Obligations.FrameEndClosesFrame : Prop :=
  (∀ imm : Word, decodeRequest ((0xA : BitVec 4) ++ imm) = .frameEnd)
  ∧ ∀ s : State, s.fault = 0 →
    (s.olen.toNat < 4 → exec .frameEnd s = .next { s with fault := 0x0004, outcome := some (.fault .rng) })
    ∧ (65535 < s.olen.toNat + 2 → exec .frameEnd s = .next { s with fault := 0x0002, outcome := some (.fault .ovf) })
    ∧ (s.buffersHold → 4 ≤ s.olen.toNat → s.olen.toNat + 2 ≤ 65535 →
      ∃ (xs covered : List Byte) (t : State), s.obufBytes = some xs
        ∧ covered = xs.take 2 ++ bytes16 (BitVec.ofNat 16 (s.olen.toNat + 2)) ++ xs.drop 4
        ∧ exec .frameEnd s = .next t
        ∧ t.olen.toNat = s.olen.toNat + 2 ∧ t.crc = crc16 covered
        ∧ (∀ a, t.obuf.read a = (covered ++ bytes16 (crc16 covered))[a]?)
        ∧ t = { s with obuf := t.obuf, olen := t.olen, crc := t.crc, outcome := some .done })

/-- R160: whatever a frame was made of, after a FRAME_END, BUILD_CFG2 or BUILD_DATA that ends done OBUF holds a whole frame: size field
and CRC read back right. -/
def Obligations.ClosedFramesAreWhole : Prop :=
  ∀ (i : Instr) (s t : State), i = .frameEnd ∨ i = .buildCfg2 ∨ i = .buildData → s.buffersHold →
    exec i s = .next t → t.outcome = some .done → ∃ f, t.obufBytes = some f ∧ wholeFrame f

/-- R148, R149: BUILD_CFG2 leaves in OBUF exactly the Configuration Frame of R78 for the configuration, its length in OLEN, its CRC in
CRC, and changes nothing else. -/
def Obligations.BuildCfg2LeavesLayout : Prop :=
  (∀ imm : Word, decodeRequest ((0xB : BitVec 4) ++ imm) = .buildCfg2)
  ∧ ∀ s : State, s.fault = 0 → s.cfg.admitted = true →
    ∃ t, exec .buildCfg2 s = .next t
      ∧ (∀ a, t.obuf.read a = (cfg2Frame s.cfg s.par)[a]?)
      ∧ t.olen.toNat = 40 + 20 * (s.cfg.phName.length + s.cfg.anName.length)
      ∧ t.crc = crc16 ((cfg2Frame s.cfg s.par).take (38 + 20 * (s.cfg.phName.length + s.cfg.anName.length)))
      ∧ t = { s with obuf := t.obuf, olen := t.olen, crc := t.crc, outcome := some .done }

/-- R154: BUILD_DATA, with a time presented and a sample that has a value for every channel, leaves in OBUF exactly the Data Frame of R76
for them, its length in OLEN, its CRC in CRC, and changes no register, no byte of IBUF and nothing of the host's session. (What becomes
of the presented inputs is the model's own, log 4, and not said here.) -/
def Obligations.BuildDataLeavesLayout : Prop :=
  (∀ imm : Word, decodeRequest ((0xC : BitVec 4) ++ imm) = .buildData)
  ∧ ∀ (s : State) (t₀ : TimeIn) (x : Sample), s.fault = 0 → s.cfg.admitted = true → s.timeIn = some t₀ → s.smpIn = some x →
    x.ph.length = s.cfg.phName.length → x.an.length = s.cfg.anName.length →
    ∃ t, exec .buildData s = .next t
      ∧ (∀ a, t.obuf.read a = (dataFrame s.cfg s.par t₀ x)[a]?)
      ∧ t.olen.toNat = 26 + 8 * s.cfg.phName.length + 4 * s.cfg.anName.length
      ∧ t.crc = crc16 ((dataFrame s.cfg s.par t₀ x).take (24 + 8 * s.cfg.phName.length + 4 * s.cfg.anName.length))
      ∧ t = { s with
          obuf := t.obuf, olen := t.olen, crc := t.crc, timeIn := t.timeIn, smpIn := t.smpIn, draws := t.draws
          outcome := some .done }

/-- R26, R27, R77, R153: whatever the host presents, or nothing, BUILD_DATA completes, with a frame of its full length whose status word is
0xC000 (an input not presented is a free value, log 4). -/
def Obligations.BuildDataRunsOnAnyInputs : Prop :=
  ∀ s : State, s.fault = 0 → s.cfg.admitted = true →
    ∃ t, exec .buildData s = .next t ∧ t.outcome = some .done
      ∧ t.olen.toNat = 26 + 8 * s.cfg.phName.length + 4 * s.cfg.anName.length
      ∧ t.obuf.read 14 = some 0xC0 ∧ t.obuf.read 15 = some 0x00

/-- R148: the Configuration Frame depends on the configuration and the parameters alone: two states that agree on them, however they
differ elsewhere, are left with the same OBUF, OLEN and CRC. -/
def Obligations.ConfigurationFrameIgnoresState : Prop :=
  ∀ s s' t t' : State, s.fault = 0 → s'.fault = 0 → s.cfg = s'.cfg → s.par = s'.par → s.cfg.admitted = true →
    exec .buildCfg2 s = .next t → exec .buildCfg2 s' = .next t' → t.obuf = t'.obuf ∧ t.olen = t'.olen ∧ t.crc = t'.crc

/-! ### Command Frame Parser -/

/-- R171, R172: PARSE_CMD leaves exactly what the first matching row of the table of R182 says of the received bytes, in CRC, CMD, STATUS
and its outcome, and changes nothing else. -/
def Obligations.ParseFollowsResultTable : Prop :=
  (∀ imm : Word, decodeRequest ((0xD : BitVec 4) ++ imm) = .parseCmd)
  ∧ ∀ s : State, s.fault = 0 → s.buffersHold →
    ∃ (bs : List Byte) (r : Parsed), bs.length = s.ilen.toNat ∧ (∀ a, s.ibuf.read a = bs[a]?)
      ∧ r = parseTable s.par s.cfg.pmuId (s.ctrl.getLsbD 0) s.crc s.cmd bs
      ∧ exec .parseCmd s = .next { s with
          crc := r.crc
          cmd := r.cmd
          status := tableStatus r.res r.bad
          outcome := some (match r.res with
            | none => .done
            | some e => .error e) }

/-- R173: a received chunk shorter than 10 bytes always yields TooShort, whatever its bytes are; one of 10 or more never does. -/
def Obligations.ShortChunkIsTooShort : Prop :=
  ∀ s : State, s.fault = 0 →
    (s.ilen.toNat < 10 → exec .parseCmd s = .next { s with status := 0x0009, outcome := some (.error .tooShort) })
    ∧ (10 ≤ s.ilen.toNat → ∀ t, exec .parseCmd s = .next t → t.outcome ≠ some (.error .tooShort) ∧ t.status ≠ 0x0009)

/-- R179: the parser does not look at the value of the command code: a command frame (R74) of this PMU or of the broadcast ID with a right
size and CRC is accepted, whatever its code, its extra bytes and the bytes received after it, and whatever CTRL says; CMD holds its
code. -/
def Obligations.WellFormedCommandFrameAccepted : Prop :=
  ∀ (s : State) (id code : Half) (extra after : List Byte), s.fault = 0 →
    id = s.cfg.pmuId ∨ id = 0xFFFF → extra.length + 10 ≤ 65535 →
    extra.length + 10 + after.length ≤ 65535 →
    let frame := frameOf s.par.sync s.par.typeCmd id (bytes16 code ++ extra)
    ∃ t, execFrom [.parseCmd] (runMove (.ibufLoad (frame ++ after)) s) = .next t
      ∧ t.cmd = code ∧ t.status = 0x0008 ∧ t.outcome = some .done ∧ t.crc = crc16 (frame.take (extra.length + 8))

/-- R74, R84, R175: received bytes at and beyond the declared size make no difference to what a parse leaves. -/
def Obligations.BytesBeyondSizeIgnored : Prop :=
  ∀ (s : State) (bs after : List Byte), s.fault = 0 → bs.length + after.length ≤ 65535 → 10 ≤ bs.length →
    (fieldAt bs 2).toNat ≤ bs.length →
    ∃ t t', execFrom [.parseCmd] (runMove (.ibufLoad (bs ++ after)) s) = .next t
      ∧ execFrom [.parseCmd] (runMove (.ibufLoad bs) s) = .next t'
      ∧ t = { t' with ibuf := t.ibuf, ilen := t.ilen }

/-- R170: the parser reads IBUF, ILEN, the PMU ID, P_SYNC, P_TYPE_CMD and ENFORCE_CRC and nothing else: two states that agree on them get
the same STATUS and outcome, the same CMD if the parse ended done, and the same CRC if check 4 was reached. -/
def Obligations.ParseReadsOnlyItsInputs : Prop :=
  ∀ s s' t t' : State, s.fault = 0 → s'.fault = 0 → s.ibuf = s'.ibuf → s.ilen = s'.ilen → s.cfg.pmuId = s'.cfg.pmuId →
    s.par.sync = s'.par.sync → s.par.typeCmd = s'.par.typeCmd → s.ctrl.getLsbD 0 = s'.ctrl.getLsbD 0 →
    exec .parseCmd s = .next t → exec .parseCmd s' = .next t' →
    t.status = t'.status ∧ t.outcome = t'.outcome ∧ (t.outcome = some .done → t.cmd = t'.cmd)
      ∧ (t.outcome = some .done ∨ t.outcome = some (.error .crcMismatch) ∨ t.outcome = some (.error .idMismatch) →
          t.crc = t'.crc)

/-- R55: PARSE_CMD may be repeated on the same bytes and gives the same result: the second changes nothing. -/
def Obligations.ParseIsRepeatable : Prop :=
  ∀ s t : State, s.fault = 0 → exec .parseCmd s = .next t → exec .parseCmd t = .next t

/-! ### The host's actions on registers and buffers -/

/-- R33, R35: a host write takes bit 0 of CTRL; a write to any other index is ignored. A host read gives the registers of the table,
reserved bits and reserved indices as 0, and changes nothing of the block (R55). -/
def Obligations.RegisterAccessFollowsIndexTable : Prop :=
  ∀ (s : State) (idx : BitVec 4) (v : Half),
    runMove (.regWrite idx v) s = .next (if idx = 0 then { s with ctrl := v &&& 0x0001 } else s)
    ∧ ∃ w : Half, runMove (.regRead idx) s = .next { s with hostWord := w }
      ∧ w = (if idx = 0 then s.ctrl &&& 0x0001 else if idx = 1 then s.status &&& 0x001F
        else if idx = 2 then s.fault &&& 0x0007 else if idx = 3 then s.crc else if idx = 4 then s.cmd
        else if idx = 5 then s.rdata else if idx = 6 then s.olen else if idx = 7 then s.ilen else 0)

/-- R57: IBUF_LOAD replaces the whole valid part of IBUF and sets ILEN, and changes nothing else; a longer chunk is refused. That it does
so in the fault state too is the model's reading of R222 (log 23). -/
def Obligations.IbufLoadReplacesInput : Prop :=
  ∀ (bs : List Byte) (s : State),
    (bs.length ≤ 65535 → ∃ t, runMove (.ibufLoad bs) s = .next t ∧ t.ilen.toNat = bs.length
      ∧ (∀ a, t.ibuf.read a = bs[a]?) ∧ t = { s with ibuf := t.ibuf, ilen := t.ilen })
    ∧ (65535 < bs.length → runMove (.ibufLoad bs) s = .refused .chunkTooLong)

/-- R58: OBUF_READ returns OBUF[0..OLEN) with no side effect on the block; after FRAME_END, BUILD_CFG2 or BUILD_DATA has ended done, that is
a whole frame. -/
def Obligations.ObufReadReturnsValidPart : Prop :=
  ∀ s : State, s.buffersHold →
    (∃ bs : List Byte, bs.length = s.olen.toNat ∧ (∀ a, s.obuf.read a = bs[a]?)
      ∧ runMove .obufRead s = .next { s with hostBytes := bs })
    ∧ ∀ (i : Instr) (t : State), i = .frameEnd ∨ i = .buildCfg2 ∨ i = .buildData → exec i s = .next t →
      t.outcome = some .done → ∃ f, runMove .obufRead t = .next { t with hostBytes := f } ∧ wholeFrame f

/-! ### The host's session -/

/-! ### The host's session -/

/-- R194: on an open session a disable command stops emission, an enable command starts or continues it and resets the pacing clock;
nothing else changes, and nothing is sent. -/
def Obligations.DisableAndEnableMoveSession : Prop :=
  ∀ s : State, s.session ≠ none →
    exec .cmdDisable s = .next { s with session := some .idle }
    ∧ exec .cmdEnable s = .next { s with session := some (.streaming s.now) }

/-- R195: an unrecognized code is treated identically to an explicit configuration request, and so are the requests for a header and for
configuration variant 1: each sends exactly one freshly built type 2 configuration frame and starts streaming from now. -/
def Obligations.SendClassSendsOneConfiguration : Prop :=
  ∀ (i : Instr) (code : Half) (s : State), i ∈ [.cmdSendHdr, .cmdSendCfg1, .cmdSendCfg2, .cmdOther code] →
    exec i s = exec .cmdSendCfg2 s
    ∧ (s.session ≠ none → s.fault = 0 → s.cfg.admitted = true →
      ∃ t, exec i s = .next t ∧ t.wire = s.wire ++ [cfg2Frame s.cfg s.par] ∧ t.session = some (.streaming s.now)
        ∧ t = { s with
            obuf := t.obuf, olen := t.olen, crc := t.crc, outcome := some .done, wire := t.wire
            hostBytes := cfg2Frame s.cfg s.par, session := t.session })

/-- R193, R194: from either state of an open session, every 16-bit code acts by its class: P_CMD_DISABLE stops emission, P_CMD_ENABLE
streams from now, and every other code sends exactly one type 2 configuration frame and streams from now. -/
def Obligations.EveryCodeActsByItsClass : Prop :=
  ∀ (code : Half) (s : State), s.session ≠ none → s.fault = 0 → s.cfg.admitted = true →
    ∃ t, exec (decodeCommand s.par code) s = .next t
      ∧ (if code = s.par.cmdDisable then t = { s with session := some .idle }
        else if code = s.par.cmdEnable then t = { s with session := some (.streaming s.now) }
        else t.wire = s.wire ++ [cfg2Frame s.cfg s.par] ∧ t.session = some (.streaming s.now)
          ∧ (∀ a, t.obuf.read a = (cfg2Frame s.cfg s.par)[a]?)
          ∧ t = { s with
              obuf := t.obuf, olen := t.olen, crc := t.crc, outcome := some .done, wire := t.wire
              hostBytes := cfg2Frame s.cfg s.par, session := t.session })

/-- R74, R194, R205: an accepted command frame, received on an open session, is loaded, parsed and acted on: CMD holds its code, and the
session moves by the code's class. -/
def Obligations.AcceptedFrameMovesSession : Prop :=
  ∀ (s : State) (id code : Half) (extra body : List Byte), s.fault = 0 → s.session ≠ none → s.cfg.admitted = true →
    id = s.cfg.pmuId ∨ id = 0xFFFF → extra.length + 10 ≤ 65535 →
    s.par.sync :: s.par.typeCmd :: body = frameOf s.par.sync s.par.typeCmd id (bytes16 code ++ extra) →
    ∃ t, exec (.frameCmd body) s = .next t ∧ t.cmd = code ∧ t.status = 0x0008
      ∧ (∀ a, t.ibuf.read a = (s.par.sync :: s.par.typeCmd :: body)[a]?)
      ∧ (if code = s.par.cmdDisable then t.session = some .idle ∧ t.wire = s.wire ∧ t.hostBytes = s.hostBytes
            ∧ t.obuf = s.obuf ∧ t.olen = s.olen
        else if code = s.par.cmdEnable then
          t.session = some (.streaming s.now) ∧ t.wire = s.wire ∧ t.hostBytes = s.hostBytes
            ∧ t.obuf = s.obuf ∧ t.olen = s.olen
        else t.session = some (.streaming s.now) ∧ t.wire = s.wire ++ [cfg2Frame s.cfg s.par]
          ∧ t.hostBytes = cfg2Frame s.cfg s.par)
      ∧ t = { s with
          ibuf := t.ibuf, ilen := t.ilen, crc := t.crc, cmd := t.cmd, status := t.status, outcome := some .done
          session := t.session, wire := t.wire, obuf := t.obuf, olen := t.olen, hostBytes := t.hostBytes }

/-- R81, R174, R196: a received chunk of at least 10 bytes that opens as a data frame or a configuration frame is BadHeader: STATUS says so,
the bytes stay in IBUF, and neither CMD, CRC nor the session changes, and nothing is sent. -/
def Obligations.ForeignFrameKindsAreBadHeader : Prop :=
  ∀ (s : State) (body : List Byte), s.fault = 0 → s.par.admitted = true → 8 ≤ body.length → body.length + 2 ≤ 65535 →
    (∃ t, exec (.frameData body) s = .next t ∧ t.status = 0x000A
      ∧ (∀ a, t.ibuf.read a = (s.par.sync :: s.par.typeData :: body)[a]?)
      ∧ t = { s with ibuf := t.ibuf, ilen := t.ilen, status := 0x000A, outcome := some (.error .badHeader) })
    ∧ (∃ t, exec (.frameCfg2 body) s = .next t ∧ t.status = 0x000A
      ∧ (∀ a, t.ibuf.read a = (s.par.sync :: s.par.typeCfg2 :: body)[a]?)
      ∧ t = { s with ibuf := t.ibuf, ilen := t.ilen, status := 0x000A, outcome := some (.error .badHeader) })

/-- R196: a received chunk, of any bytes, in any state, whose parse ends in an error makes no transition and emits no response. -/
def Obligations.FailedParseMakesNoTransition : Prop :=
  ∀ (bs : List Byte) (s t : State) (e : ParseError), runMove (.receive bs) s = .next t → t.outcome = some (.error e) →
    t.session = s.session ∧ t.wire = s.wire ∧ t.cmd = s.cmd ∧ t.obuf = s.obuf ∧ t.olen = s.olen ∧ t.fault = s.fault

/-- R205 (a): receiving a chunk in one move is the same as the host's three moves IBUF_LOAD, PARSE_CMD, and acting on CMD. That they are
moves of a list is log 18; that in the fault state the load happens, the request is only recorded as refused and the act makes no
transition is the model's choice or reading (logs 23, 6, 15). -/
def Obligations.ReceiveIsLoadParseAct : Prop :=
  ∀ (bs : List Byte) (s : State) (rest : List HostMove), bs.length ≤ 65535 →
    Host.Core.run Sys2Proof.core 1 (s.setPending (.receive bs :: rest))
      = Host.Core.run Sys2Proof.core 3 (s.setPending (.ibufLoad bs :: .request 0xD00000000 :: .act :: rest))

/-- R202, R203: on a tick without inbound bytes, a streaming session for which an emission is due sends exactly one data frame and the
last emission is now; one for which none is due, and an idle one, sends nothing and only the clock moves. (What becomes of the presented inputs is log 4 and not
said here.) -/
def Obligations.SchedulerSendsAtMostOne : Prop :=
  ∀ (s : State) (now : Nat),
    (∀ (last : Nat) (t₀ : TimeIn) (x : Sample), s.session = some (.streaming last) → s.fault = 0 → s.cfg.admitted = true →
      s.timeIn = some t₀ → s.smpIn = some x → x.ph.length = s.cfg.phName.length → x.an.length = s.cfg.anName.length →
      emissionDue s.intervalDiv s.ticksPerMs s.cfg.dataRate.toNat last now = true →
      ∃ t, runMove (.tick now []) s = .next t ∧ t.wire = s.wire ++ [dataFrame s.cfg s.par t₀ x]
        ∧ t.session = some (.streaming now)
        ∧ t = { s with
            now := now, session := t.session, wire := t.wire, hostBytes := dataFrame s.cfg s.par t₀ x
            obuf := t.obuf, olen := t.olen, crc := t.crc, outcome := some .done
            timeIn := t.timeIn, smpIn := t.smpIn, draws := t.draws })
    ∧ (∀ last : Nat, s.session = some (.streaming last) →
      emissionDue s.intervalDiv s.ticksPerMs s.cfg.dataRate.toNat last now = false →
      runMove (.tick now []) s = .next { s with now := now })
    ∧ (s.session = some .idle → runMove (.tick now []) s = .next { s with now := now })

/-- R201, R202, R204: an emission is due when the time since the last one, in milliseconds, is at least 1000 / rate: compared exactly for
`exact`, with the truncated quotient for `floor`. (That the clock counts ticks is log 17; that an interval truncated to 0 is due at
elapsed 0 is log 27.) -/
def Obligations.EmissionDueAtInterval : Prop :=
  ∀ ticks rate last now : Nat, 1 ≤ ticks → 1 ≤ rate →
    (emissionDue .exact ticks rate last now = true ↔
      (1000 : ℚ) / (rate : ℚ) ≤ ((now : ℚ) - (last : ℚ)) / (ticks : ℚ))
    ∧ (emissionDue .floor ticks rate last now = true ↔
      ((1000 / rate : ℕ) : ℚ) ≤ ((now : ℚ) - (last : ℚ)) / (ticks : ℚ))

/-- R207: a tick that handles a configuration request sends the configuration frame and no data frame: the pacing clock has just been
reset. That is for an interval that is not truncated to 0; for one that is, the model sends a data frame too, its choice (log 27). -/
def Obligations.ConfigurationResponseGoesFirst : Prop :=
  ∀ (s : State) (now : Nat) (id code : Half), s.fault = 0 → s.session ≠ none → s.cfg.admitted = true →
    id = s.cfg.pmuId ∨ id = 0xFFFF → code ≠ s.par.cmdDisable → code ≠ s.par.cmdEnable →
    1 ≤ s.ticksPerMs → s.intervalDiv = .exact ∨ s.cfg.dataRate.toNat ≤ 1000 →
    ∃ t, runMove (.tick now (frameOf s.par.sync s.par.typeCmd id (bytes16 code))) s = .next t
      ∧ t.wire = s.wire ++ [cfg2Frame s.cfg s.par] ∧ t.session = some (.streaming now)

/-- R191, R192, R208, R210: an accepted connection creates one Idle session, and no second one; a connection that ends destroys it, and
touches nothing of the block. (That a second connection changes nothing is log 20.) -/
def Obligations.SessionLivesWithConnection : Prop :=
  ∀ s : State,
    (s.session = none → s.fault = 0 → runMove .connect s = .next { s with session := some .idle })
    ∧ (s.session ≠ none → runMove .connect s = .next s)
    ∧ runMove .disconnect s = .next { s with session := none }

/-! ### The whole machine -/

/-- R21 to R24, R31, R32, R33, R56: which operations write what. CTRL, IBUF, ILEN and the host's state are written by no operation, STATUS
and CMD by PARSE_CMD only, RDATA by GET_U16 only, CRC and OBUF only by the operations the spec lists; the inputs are taken by BUILD_DATA
only. -/
def Obligations.OperationsWriteOnlyTheirOwn : Prop :=
  ∀ (i : Instr) (s t : State), i.isRequest = true → exec i s = .next t →
    t = { t with
        ctrl := s.ctrl, ibuf := s.ibuf, ilen := s.ilen, cfg := s.cfg, par := s.par, session := s.session, now := s.now
        intervalDiv := s.intervalDiv, ticksPerMs := s.ticksPerMs, wire := s.wire, hostBytes := s.hostBytes
        hostWord := s.hostWord, pending := s.pending }
    ∧ (i ≠ .parseCmd → t.status = s.status ∧ t.cmd = s.cmd)
    ∧ ((∀ k, i ≠ .getU16 k) → t.rdata = s.rdata)
    ∧ ((∀ b, i ≠ .crcByte b) → i ∉ [.crcInit, .crcObuf, .frameEnd, .buildCfg2, .buildData, .parseCmd] → t.crc = s.crc)
    ∧ ((∃ b, i = .crcByte b) ∨ (∃ k, i = .getU16 k) ∨ i ∈ [.crcInit, .crcObuf, .parseCmd] →
        t.obuf = s.obuf ∧ t.olen = s.olen)
    ∧ (i ≠ .buildData → t.timeIn = s.timeIn ∧ t.smpIn = s.smpIn ∧ t.draws = s.draws)

/-- R30 (a): no operation moves OLEN backwards but OBUF_CLEAR and those that open a fresh frame. -/
def Obligations.OutputLengthNeverShrinks : Prop :=
  ∀ (i : Instr) (s t : State), i.isRequest = true → i ∉ [.obufClear, .buildCfg2, .buildData] → (∀ y, i ≠ .frameBegin y) →
    exec i s = .next t → s.olen.toNat ≤ t.olen.toNat

/-- R28, R242: the configuration and the parameters change at reset only. -/
def Obligations.ConfigurationChangesAtResetOnly : Prop :=
  ∀ (s t : State) (m : HostMove) (rest : List HostMove), s.pending = m :: rest → m.isReset = false → step s = .next t →
    t.cfg = s.cfg ∧ t.par = s.par

/-- The invariant holds after a first reset with any admitted configuration and parameters, and in State.reset, whose configuration and
parameters are the model's choice (log 2, log 3). -/
def Obligations.InvariantHoldsAtReset : Prop :=
  (∀ (c : Station) (p : Params), c.admitted = true → p.admitted = true → (State.resetWith c p).Inv) ∧ State.reset.Inv

/-- R31, R33, R34, R38, R222: every step keeps the invariant: the buffers hold exactly their valid parts, in canonical form; the reserved
bits of CTRL, STATUS and FAULT stay 0 and their fields legal; CFG_ERR is set exactly for an unsupported format; the configuration stays
admitted. -/
def Obligations.StepKeepsInvariant : Prop :=
  ∀ s t : State, s.Inv → step s = .next t →
    t.Inv ∧ t.obuf.wf ∧ t.ibuf.wf

/-- R13, R264, R266: from a state of the invariant every admitted move answers a next state: no rule reads a byte that holds no value. In
the fault state, which the invariant admits, R222 calls a request refused, with no enabled step until reset; that it answers a next state
there, which only records the refusal, is the model's choice (log 6). -/
def Obligations.AdmittedMovesComplete : Prop :=
  ∀ s : State, s.Inv → (∀ m rest, s.pending = m :: rest → m.admitted = true) → ∃ t, step s = .next t

/-- R160, R207, R248: every frame on the wire is whole, in every state a run can reach: no half-built frame, no frame of a faulted
operation and no malformed bytes are ever sent. -/
def Obligations.WireCarriesWholeFrames : Prop :=
  ∀ s t : State, s.Inv → (∀ f ∈ s.wire, wholeFrame f) → step s = .next t → ∀ f ∈ t.wire, wholeFrame f
end

