-- ==== Sys2Proof/Laws/Decode.lean ====
section
/-! SUPPORT. The fields of a request put together and taken apart. -/
namespace Sys2Proof

theorem reqOp_append (op : BitVec 4) (imm : Word) : reqOp (op ++ imm) = op.toNat := by
  rw [reqOp]
  congr 1
  refine BitVec.eq_of_getLsbD_eq fun i hi => ?_
  simp only [BitVec.getLsbD_extractLsb', BitVec.getLsbD_append]
  rw [if_neg (by omega), Nat.add_sub_cancel_left]
  simp [hi]

theorem extract_append_low (op : BitVec 4) (imm : Word) (n : Nat) (h : n ≤ 32) :
    BitVec.extractLsb' 0 n (op ++ imm : BitVec (4 + 32)) = imm.extractLsb' 0 n := by
  refine BitVec.eq_of_getLsbD_eq fun i hi => ?_
  simp only [BitVec.getLsbD_extractLsb', BitVec.getLsbD_append, Nat.zero_add]
  rw [if_pos (by omega)]

theorem reqImm_append (op : BitVec 4) (imm : Word) : reqImm (op ++ imm) = imm := by
  rw [reqImm, extract_append_low _ _ _ (le_refl 32)]
  simp

theorem reqImm16_append (op : BitVec 4) (imm : Word) : reqImm16 (op ++ imm) = imm.extractLsb' 0 16 :=
  extract_append_low _ _ _ (by omega)

theorem reqImm8_append (op : BitVec 4) (imm : Word) : reqImm8 (op ++ imm) = imm.extractLsb' 0 8 :=
  extract_append_low _ _ _ (by omega)

theorem immOfHalf_low (v : Half) : (immOfHalf v).extractLsb' 0 16 = v := by
  refine BitVec.eq_of_getLsbD_eq fun i hi => ?_
  simp [immOfHalf, hi, (by omega : i < 32)]

theorem immOfByte_low (b : Byte) : (immOfByte b).extractLsb' 0 8 = b := by
  refine BitVec.eq_of_getLsbD_eq fun i hi => ?_
  simp [immOfByte, hi, (by omega : i < 32)]

end Sys2Proof
end

