-- ==== Sys2Proof/Laws/Memory.lean ====
section
/-! SUPPORT. The laws of the byte memories: a read after a write, the canonical form kept by every operation, and what a buffer that
holds exactly its valid part gives a read. -/
namespace Sys2Proof.Machine

theorem Memory.read_write (m : Memory) (a : Nat) (b : Byte) (x : Nat) :
    (m.write a b).read x = if x = a then some b else m.read x := by
  induction m with
  | nil => simp only [Memory.write, Memory.read, eq_comm]
  | cons c m ih =>
    obtain ⟨k, v⟩ := c
    simp only [Memory.write]
    split
    · simp only [Memory.read, eq_comm]
    · split
      · subst_vars
        by_cases h : x = k <;> simp [Memory.read, h, eq_comm]
      · simp only [Memory.read, ih]
        by_cases h : k = x
        · subst h
          simp [eq_comm, *]
        · simp [h]

/-- A byte outside the written range reads as before. -/
theorem Memory.read_writeBytes_outside (m : Memory) (a : Nat) (bs : List Byte) (x : Nat)
    (h : x < a ∨ a + bs.length ≤ x) : (m.writeBytes a bs).read x = m.read x := by
  induction bs generalizing m a with
  | nil => rfl
  | cons b bs ih =>
    rw [List.length_cons] at h
    rw [Memory.writeBytes, ih _ _ (by omega), Memory.read_write, if_neg (by omega)]

/-- A byte inside the written range reads as written. -/
theorem Memory.read_writeBytes_inside (m : Memory) (a : Nat) (bs : List Byte) (i : Nat) (h : i < bs.length) :
    (m.writeBytes a bs).read (a + i) = bs[i]? := by
  induction bs generalizing m a i with
  | nil => simp at h
  | cons b bs ih =>
    rw [Memory.writeBytes]
    cases i with
    | zero =>
      rw [Memory.read_writeBytes_outside _ _ _ _ (by omega), Memory.read_write, if_pos (by omega)]
      rfl
    | succ i =>
      have := ih (m.write a b) (a + 1) i (by simpa using h)
      rw [show a + 1 + i = a + (i + 1) by omega] at this
      simpa using this

/-- Reading any byte after a sequence of writes. -/
theorem Memory.read_writeBytes (m : Memory) (a : Nat) (bs : List Byte) (x : Nat) :
    (m.writeBytes a bs).read x = if a ≤ x ∧ x < a + bs.length then bs[x - a]? else m.read x := by
  split
  · next h =>
    have := Memory.read_writeBytes_inside m a bs (x - a) (by omega)
    rwa [show a + (x - a) = x by omega] at this
  · exact Memory.read_writeBytes_outside _ _ _ _ (by omega)

theorem Memory.keys_write_mem (m : Memory) (a : Nat) (b : Byte) (x : Nat) :
    x ∈ (m.write a b).map Prod.fst ↔ x = a ∨ x ∈ m.map Prod.fst := by
  induction m with
  | nil => simp [Memory.write]
  | cons c m ih =>
    obtain ⟨k, v⟩ := c
    simp only [Memory.write]
    split
    · simp
    · split
      · subst_vars
        simp
      · simp only [List.map_cons, List.mem_cons, ih]
        tauto

/-- A write keeps the canonical form. -/
theorem Memory.wf_write (m : Memory) (a : Nat) (b : Byte) (h : m.wf) : (m.write a b).wf := by
  induction m with
  | nil => simp [Memory.write, Memory.wf]
  | cons c m ih =>
    obtain ⟨k, v⟩ := c
    have hk : ∀ x ∈ m.map Prod.fst, k < x := (List.pairwise_cons.mp h).1
    have hm : Memory.wf m := (List.pairwise_cons.mp h).2
    simp only [Memory.write]
    split
    · refine List.pairwise_cons.mpr ⟨fun x hx => ?_, h⟩
      rcases List.mem_cons.mp hx with rfl | hx
      · assumption
      · exact lt_trans ‹_› (hk x hx)
    · split
      · subst_vars
        exact h
      · refine List.pairwise_cons.mpr ⟨fun x hx => ?_, ih hm⟩
        rcases (Memory.keys_write_mem m a b x).mp hx with rfl | hx
        · show k < x
          omega
        · exact hk x hx

/-- Writing bytes keeps the canonical form. -/
theorem Memory.wf_writeBytes (m : Memory) (a : Nat) (bs : List Byte) (h : m.wf) : (m.writeBytes a bs).wf := by
  induction bs generalizing m a with
  | nil => exact h
  | cons b bs ih => exact ih _ _ (Memory.wf_write m a b h)

/-- Memory after reset is in canonical form. -/
theorem Memory.wf_reset : Memory.wf State.reset.obuf ∧ Memory.wf State.reset.ibuf :=
  ⟨List.Pairwise.nil, List.Pairwise.nil⟩

/-- A buffer that holds exactly its valid part is in canonical form. -/
theorem Memory.wf_of_holds {m : Memory} {n : Nat} (h : m.holds n) : m.wf := by
  unfold Memory.wf
  rw [show m.map Prod.fst = List.range n from h]
  exact List.pairwise_lt_range

theorem Memory.read_isSome_iff (m : Memory) (a : Nat) : (m.read a).isSome ↔ a ∈ m.map Prod.fst := by
  induction m with
  | nil => simp [Memory.read]
  | cons c m ih =>
    obtain ⟨k, v⟩ := c
    by_cases h : k = a
    · simp [Memory.read, h]
    · simp [Memory.read, h, ih, Ne.symm h]

/-- Exactly the bytes of the valid part hold a value. -/
theorem Memory.read_isSome_of_holds {m : Memory} {n : Nat} (h : m.holds n) (a : Nat) :
    (m.read a).isSome ↔ a < n := by
  rw [Memory.read_isSome_iff, show m.map Prod.fst = List.range n from h, List.mem_range]

/-- Two memories in canonical form that read alike are the same data. -/
theorem Memory.ext_of_wf {m m' : Memory} (h : m.wf) (h' : m'.wf) (e : ∀ a, m.read a = m'.read a) : m = m' := by
  induction m generalizing m' with
  | nil =>
    cases m' with
    | nil => rfl
    | cons c m' =>
      obtain ⟨k, v⟩ := c
      simpa [Memory.read] using e k
  | cons c m ih =>
    obtain ⟨k, v⟩ := c
    have hk : ∀ x ∈ m.map Prod.fst, k < x := (List.pairwise_cons.mp h).1
    cases m' with
    | nil => simpa [Memory.read] using e k
    | cons c' m' =>
      obtain ⟨k', v'⟩ := c'
      have hk' : ∀ x ∈ m'.map Prod.fst, k' < x := (List.pairwise_cons.mp h').1
      have none_of (m : Memory) (a : Nat) (hn : a ∉ m.map Prod.fst) : m.read a = none := by
        have := (Memory.read_isSome_iff m a).not.mpr hn
        simpa using this
      have hkk : k = k' := by
        by_contra hne
        rcases lt_or_gt_of_ne hne with hlt | hlt
        · have := e k
          rw [none_of ((k', v') :: m') k (by
            intro hm
            rcases List.mem_cons.mp hm with rfl | hm
            · exact hne rfl
            · exact absurd (hk' k hm) (by omega))] at this
          simp [Memory.read] at this
        · have := e k'
          rw [none_of ((k, v) :: m) k' (by
            intro hm
            rcases List.mem_cons.mp hm with h | hm
            · exact hne h.symm
            · exact absurd (hk k' hm) (by omega))] at this
          simp [Memory.read] at this
      subst hkk
      have hv : v = v' := by simpa [Memory.read] using e k
      subst hv
      have := ih (List.pairwise_cons.mp h).2 (List.pairwise_cons.mp h').2 (fun a => by
        by_cases ha : k = a
        · subst ha
          rw [none_of m k (fun hm => absurd (hk k hm) (by omega)), none_of m' k (fun hm => absurd (hk' k hm) (by omega))]
        · simpa [Memory.read, ha] using e a)
      rw [this]

/-- A canonical memory in which exactly the offsets below `n` hold a value is a buffer of length `n`. -/
theorem Memory.holds_of_wf {m : Memory} {n : Nat} (h : m.wf) (e : ∀ a, (m.read a).isSome ↔ a < n) : m.holds n := by
  have hmem : ∀ a, a ∈ m.map Prod.fst ↔ a ∈ List.range n := fun a => by
    rw [← Memory.read_isSome_iff, e, List.mem_range]
  have hperm : (m.map Prod.fst).Perm (List.range n) :=
    (List.perm_ext_iff_of_nodup (h.imp (fun hlt => Nat.ne_of_lt hlt)) List.nodup_range).mpr hmem
  exact hperm.eq_of_pairwise (fun a b _ _ h1 h2 => absurd h1 (by omega)) h List.pairwise_lt_range

/-- Bytes written inside or right behind the valid part: the valid part grows to cover them. -/
theorem Memory.holds_writeBytes {m : Memory} {n : Nat} (h : m.holds n) {a : Nat} (bs : List Byte) (ha : a ≤ n) :
    (m.writeBytes a bs).holds (max n (a + bs.length)) := by
  refine Memory.holds_of_wf (Memory.wf_writeBytes m a bs (Memory.wf_of_holds h)) (fun x => ?_)
  rw [Memory.read_writeBytes]
  split
  · next hx =>
    simp only [lt_max_iff, isSome_getElem?]
    omega
  · next hx =>
    rw [Memory.read_isSome_of_holds h]
    simp only [lt_max_iff]
    omega

/-- What a sequential read gives, byte by byte. -/
theorem Memory.readBytes_eq_some_iff (m : Memory) (a n : Nat) (bs : List Byte) :
    m.readBytes a n = some bs ↔ bs.length = n ∧ ∀ i, i < n → m.read (a + i) = bs[i]? := by
  induction n generalizing a bs with
  | zero =>
    simp only [Memory.readBytes]
    constructor
    · rintro ⟨⟩
      simp
    · rintro ⟨h, -⟩
      rw [List.length_eq_zero_iff.mp h]
  | succ n ih =>
    simp only [Memory.readBytes]
    constructor
    · intro h
      split at h
      · cases h
      · next b hb =>
        split at h
        · cases h
        · next tl htl =>
          cases h
          obtain ⟨hl, hi⟩ := (ih (a + 1) tl).mp htl
          refine ⟨by simp [hl], fun i hin => ?_⟩
          cases i with
          | zero => simpa using hb
          | succ i =>
            have := hi i (by omega)
            rw [show a + 1 + i = a + (i + 1) by omega] at this
            simpa using this
    · rintro ⟨hl, hi⟩
      cases bs with
      | nil => simp at hl
      | cons b tl =>
        have h0 := hi 0 (by omega)
        have htl := (ih (a + 1) tl).mpr ⟨by simpa using hl, fun i hin => by
          have := hi (i + 1) (by omega)
          rw [show a + 1 + i = a + (i + 1) by omega]
          simpa using this⟩
        simp only [Nat.add_zero, List.getElem?_cons_zero] at h0
        rw [h0, htl]

/-- A read within the valid part always gives bytes (R266). -/
theorem Memory.readBytes_isSome_of_holds {m : Memory} {l : Nat} (h : m.holds l) (a n : Nat) (hle : a + n ≤ l) :
    ∃ bs, m.readBytes a n = some bs := by
  induction n generalizing a with
  | zero => exact ⟨[], rfl⟩
  | succ n ih =>
    obtain ⟨b, hb⟩ := Option.isSome_iff_exists.mp ((Memory.read_isSome_of_holds h a).mpr (by omega))
    obtain ⟨bs, hbs⟩ := ih (a + 1) (by omega)
    exact ⟨b :: bs, by simp [Memory.readBytes, hb, hbs]⟩

/-- A 16-bit read within the valid part always gives a value (R266). -/
theorem Memory.getU16_isSome_of_holds {m : Memory} {l : Nat} (h : m.holds l) (k : Nat) (hle : k + 2 ≤ l) :
    ∃ v, m.getU16 k = some v := by
  obtain ⟨b0, h0⟩ := Option.isSome_iff_exists.mp ((Memory.read_isSome_of_holds h k).mpr (by omega))
  obtain ⟨b1, h1⟩ := Option.isSome_iff_exists.mp ((Memory.read_isSome_of_holds h (k + 1)).mpr (by omega))
  exact ⟨be16 b0 b1, by simp [Memory.getU16, h0, h1]⟩

/-- What has been written is read back. -/
theorem Memory.readBytes_writeBytes (m : Memory) (a : Nat) (bs : List Byte) :
    (m.writeBytes a bs).readBytes a bs.length = some bs :=
  (Memory.readBytes_eq_some_iff _ _ _ _).mpr ⟨rfl, fun _ hi => Memory.read_writeBytes_inside _ _ _ _ hi⟩

/-- A sequential read and an append behind it. -/
theorem Memory.readBytes_append (m : Memory) (a n k : Nat) (xs ys : List Byte)
    (hx : m.readBytes a n = some xs) (hy : m.readBytes (a + n) k = some ys) :
    m.readBytes a (n + k) = some (xs ++ ys) := by
  obtain ⟨hxl, hxi⟩ := (Memory.readBytes_eq_some_iff ..).mp hx
  obtain ⟨hyl, hyi⟩ := (Memory.readBytes_eq_some_iff ..).mp hy
  refine (Memory.readBytes_eq_some_iff ..).mpr ⟨by simp [hxl, hyl], fun i hi => ?_⟩
  by_cases h : i < n
  · rw [hxi i h, List.getElem?_append_left (by omega)]
  · rw [List.getElem?_append_right (by omega), hxl, ← hyi (i - n) (by omega)]
    congr 1
    omega

/-- A sequential read is not changed by a write outside it. -/
theorem Memory.readBytes_writeBytes_outside (m : Memory) (a n w : Nat) (bs : List Byte)
    (h : a + n ≤ w ∨ w + bs.length ≤ a) : (m.writeBytes w bs).readBytes a n = m.readBytes a n := by
  induction n generalizing a with
  | zero => rfl
  | succ n ih =>
    simp only [Memory.readBytes]
    rw [Memory.read_writeBytes_outside _ _ _ _ (by omega), ih (a + 1) (by omega)]

end Sys2Proof.Machine
end

