-- ==== Sys2Proof/Laws/State.lean ====
section
/-! SUPPORT. One lemma per field per update of State, true by rfl, so that no proof unfolds a record update. -/
namespace Sys2Proof.Machine
variable (s : State)

section setCtrlFields
@[simp] theorem State.setCtrl_ctrl (v : Half) : (s.setCtrl v).ctrl = v := rfl
@[simp] theorem State.setCtrl_status (v : Half) : (s.setCtrl v).status = s.status := rfl
@[simp] theorem State.setCtrl_fault (v : Half) : (s.setCtrl v).fault = s.fault := rfl
@[simp] theorem State.setCtrl_crc (v : Half) : (s.setCtrl v).crc = s.crc := rfl
@[simp] theorem State.setCtrl_cmd (v : Half) : (s.setCtrl v).cmd = s.cmd := rfl
@[simp] theorem State.setCtrl_rdata (v : Half) : (s.setCtrl v).rdata = s.rdata := rfl
@[simp] theorem State.setCtrl_olen (v : Half) : (s.setCtrl v).olen = s.olen := rfl
@[simp] theorem State.setCtrl_ilen (v : Half) : (s.setCtrl v).ilen = s.ilen := rfl
@[simp] theorem State.setCtrl_obuf (v : Half) : (s.setCtrl v).obuf = s.obuf := rfl
@[simp] theorem State.setCtrl_ibuf (v : Half) : (s.setCtrl v).ibuf = s.ibuf := rfl
@[simp] theorem State.setCtrl_cfg (v : Half) : (s.setCtrl v).cfg = s.cfg := rfl
@[simp] theorem State.setCtrl_par (v : Half) : (s.setCtrl v).par = s.par := rfl
@[simp] theorem State.setCtrl_timeIn (v : Half) : (s.setCtrl v).timeIn = s.timeIn := rfl
@[simp] theorem State.setCtrl_smpIn (v : Half) : (s.setCtrl v).smpIn = s.smpIn := rfl
@[simp] theorem State.setCtrl_draws (v : Half) : (s.setCtrl v).draws = s.draws := rfl
@[simp] theorem State.setCtrl_session (v : Half) : (s.setCtrl v).session = s.session := rfl
@[simp] theorem State.setCtrl_now (v : Half) : (s.setCtrl v).now = s.now := rfl
@[simp] theorem State.setCtrl_intervalDiv (v : Half) : (s.setCtrl v).intervalDiv = s.intervalDiv := rfl
@[simp] theorem State.setCtrl_ticksPerMs (v : Half) : (s.setCtrl v).ticksPerMs = s.ticksPerMs := rfl
@[simp] theorem State.setCtrl_wire (v : Half) : (s.setCtrl v).wire = s.wire := rfl
@[simp] theorem State.setCtrl_hostBytes (v : Half) : (s.setCtrl v).hostBytes = s.hostBytes := rfl
@[simp] theorem State.setCtrl_hostWord (v : Half) : (s.setCtrl v).hostWord = s.hostWord := rfl
@[simp] theorem State.setCtrl_outcome (v : Half) : (s.setCtrl v).outcome = s.outcome := rfl
@[simp] theorem State.setCtrl_pending (v : Half) : (s.setCtrl v).pending = s.pending := rfl
end setCtrlFields

section setStatusFields
@[simp] theorem State.setStatus_ctrl (v : Half) : (s.setStatus v).ctrl = s.ctrl := rfl
@[simp] theorem State.setStatus_status (v : Half) : (s.setStatus v).status = v := rfl
@[simp] theorem State.setStatus_fault (v : Half) : (s.setStatus v).fault = s.fault := rfl
@[simp] theorem State.setStatus_crc (v : Half) : (s.setStatus v).crc = s.crc := rfl
@[simp] theorem State.setStatus_cmd (v : Half) : (s.setStatus v).cmd = s.cmd := rfl
@[simp] theorem State.setStatus_rdata (v : Half) : (s.setStatus v).rdata = s.rdata := rfl
@[simp] theorem State.setStatus_olen (v : Half) : (s.setStatus v).olen = s.olen := rfl
@[simp] theorem State.setStatus_ilen (v : Half) : (s.setStatus v).ilen = s.ilen := rfl
@[simp] theorem State.setStatus_obuf (v : Half) : (s.setStatus v).obuf = s.obuf := rfl
@[simp] theorem State.setStatus_ibuf (v : Half) : (s.setStatus v).ibuf = s.ibuf := rfl
@[simp] theorem State.setStatus_cfg (v : Half) : (s.setStatus v).cfg = s.cfg := rfl
@[simp] theorem State.setStatus_par (v : Half) : (s.setStatus v).par = s.par := rfl
@[simp] theorem State.setStatus_timeIn (v : Half) : (s.setStatus v).timeIn = s.timeIn := rfl
@[simp] theorem State.setStatus_smpIn (v : Half) : (s.setStatus v).smpIn = s.smpIn := rfl
@[simp] theorem State.setStatus_draws (v : Half) : (s.setStatus v).draws = s.draws := rfl
@[simp] theorem State.setStatus_session (v : Half) : (s.setStatus v).session = s.session := rfl
@[simp] theorem State.setStatus_now (v : Half) : (s.setStatus v).now = s.now := rfl
@[simp] theorem State.setStatus_intervalDiv (v : Half) : (s.setStatus v).intervalDiv = s.intervalDiv := rfl
@[simp] theorem State.setStatus_ticksPerMs (v : Half) : (s.setStatus v).ticksPerMs = s.ticksPerMs := rfl
@[simp] theorem State.setStatus_wire (v : Half) : (s.setStatus v).wire = s.wire := rfl
@[simp] theorem State.setStatus_hostBytes (v : Half) : (s.setStatus v).hostBytes = s.hostBytes := rfl
@[simp] theorem State.setStatus_hostWord (v : Half) : (s.setStatus v).hostWord = s.hostWord := rfl
@[simp] theorem State.setStatus_outcome (v : Half) : (s.setStatus v).outcome = s.outcome := rfl
@[simp] theorem State.setStatus_pending (v : Half) : (s.setStatus v).pending = s.pending := rfl
end setStatusFields

section setFaultFields
@[simp] theorem State.setFault_ctrl (v : Half) : (s.setFault v).ctrl = s.ctrl := rfl
@[simp] theorem State.setFault_status (v : Half) : (s.setFault v).status = s.status := rfl
@[simp] theorem State.setFault_fault (v : Half) : (s.setFault v).fault = v := rfl
@[simp] theorem State.setFault_crc (v : Half) : (s.setFault v).crc = s.crc := rfl
@[simp] theorem State.setFault_cmd (v : Half) : (s.setFault v).cmd = s.cmd := rfl
@[simp] theorem State.setFault_rdata (v : Half) : (s.setFault v).rdata = s.rdata := rfl
@[simp] theorem State.setFault_olen (v : Half) : (s.setFault v).olen = s.olen := rfl
@[simp] theorem State.setFault_ilen (v : Half) : (s.setFault v).ilen = s.ilen := rfl
@[simp] theorem State.setFault_obuf (v : Half) : (s.setFault v).obuf = s.obuf := rfl
@[simp] theorem State.setFault_ibuf (v : Half) : (s.setFault v).ibuf = s.ibuf := rfl
@[simp] theorem State.setFault_cfg (v : Half) : (s.setFault v).cfg = s.cfg := rfl
@[simp] theorem State.setFault_par (v : Half) : (s.setFault v).par = s.par := rfl
@[simp] theorem State.setFault_timeIn (v : Half) : (s.setFault v).timeIn = s.timeIn := rfl
@[simp] theorem State.setFault_smpIn (v : Half) : (s.setFault v).smpIn = s.smpIn := rfl
@[simp] theorem State.setFault_draws (v : Half) : (s.setFault v).draws = s.draws := rfl
@[simp] theorem State.setFault_session (v : Half) : (s.setFault v).session = s.session := rfl
@[simp] theorem State.setFault_now (v : Half) : (s.setFault v).now = s.now := rfl
@[simp] theorem State.setFault_intervalDiv (v : Half) : (s.setFault v).intervalDiv = s.intervalDiv := rfl
@[simp] theorem State.setFault_ticksPerMs (v : Half) : (s.setFault v).ticksPerMs = s.ticksPerMs := rfl
@[simp] theorem State.setFault_wire (v : Half) : (s.setFault v).wire = s.wire := rfl
@[simp] theorem State.setFault_hostBytes (v : Half) : (s.setFault v).hostBytes = s.hostBytes := rfl
@[simp] theorem State.setFault_hostWord (v : Half) : (s.setFault v).hostWord = s.hostWord := rfl
@[simp] theorem State.setFault_outcome (v : Half) : (s.setFault v).outcome = s.outcome := rfl
@[simp] theorem State.setFault_pending (v : Half) : (s.setFault v).pending = s.pending := rfl
end setFaultFields

section setCrcFields
@[simp] theorem State.setCrc_ctrl (v : Half) : (s.setCrc v).ctrl = s.ctrl := rfl
@[simp] theorem State.setCrc_status (v : Half) : (s.setCrc v).status = s.status := rfl
@[simp] theorem State.setCrc_fault (v : Half) : (s.setCrc v).fault = s.fault := rfl
@[simp] theorem State.setCrc_crc (v : Half) : (s.setCrc v).crc = v := rfl
@[simp] theorem State.setCrc_cmd (v : Half) : (s.setCrc v).cmd = s.cmd := rfl
@[simp] theorem State.setCrc_rdata (v : Half) : (s.setCrc v).rdata = s.rdata := rfl
@[simp] theorem State.setCrc_olen (v : Half) : (s.setCrc v).olen = s.olen := rfl
@[simp] theorem State.setCrc_ilen (v : Half) : (s.setCrc v).ilen = s.ilen := rfl
@[simp] theorem State.setCrc_obuf (v : Half) : (s.setCrc v).obuf = s.obuf := rfl
@[simp] theorem State.setCrc_ibuf (v : Half) : (s.setCrc v).ibuf = s.ibuf := rfl
@[simp] theorem State.setCrc_cfg (v : Half) : (s.setCrc v).cfg = s.cfg := rfl
@[simp] theorem State.setCrc_par (v : Half) : (s.setCrc v).par = s.par := rfl
@[simp] theorem State.setCrc_timeIn (v : Half) : (s.setCrc v).timeIn = s.timeIn := rfl
@[simp] theorem State.setCrc_smpIn (v : Half) : (s.setCrc v).smpIn = s.smpIn := rfl
@[simp] theorem State.setCrc_draws (v : Half) : (s.setCrc v).draws = s.draws := rfl
@[simp] theorem State.setCrc_session (v : Half) : (s.setCrc v).session = s.session := rfl
@[simp] theorem State.setCrc_now (v : Half) : (s.setCrc v).now = s.now := rfl
@[simp] theorem State.setCrc_intervalDiv (v : Half) : (s.setCrc v).intervalDiv = s.intervalDiv := rfl
@[simp] theorem State.setCrc_ticksPerMs (v : Half) : (s.setCrc v).ticksPerMs = s.ticksPerMs := rfl
@[simp] theorem State.setCrc_wire (v : Half) : (s.setCrc v).wire = s.wire := rfl
@[simp] theorem State.setCrc_hostBytes (v : Half) : (s.setCrc v).hostBytes = s.hostBytes := rfl
@[simp] theorem State.setCrc_hostWord (v : Half) : (s.setCrc v).hostWord = s.hostWord := rfl
@[simp] theorem State.setCrc_outcome (v : Half) : (s.setCrc v).outcome = s.outcome := rfl
@[simp] theorem State.setCrc_pending (v : Half) : (s.setCrc v).pending = s.pending := rfl
end setCrcFields

section setCmdFields
@[simp] theorem State.setCmd_ctrl (v : Half) : (s.setCmd v).ctrl = s.ctrl := rfl
@[simp] theorem State.setCmd_status (v : Half) : (s.setCmd v).status = s.status := rfl
@[simp] theorem State.setCmd_fault (v : Half) : (s.setCmd v).fault = s.fault := rfl
@[simp] theorem State.setCmd_crc (v : Half) : (s.setCmd v).crc = s.crc := rfl
@[simp] theorem State.setCmd_cmd (v : Half) : (s.setCmd v).cmd = v := rfl
@[simp] theorem State.setCmd_rdata (v : Half) : (s.setCmd v).rdata = s.rdata := rfl
@[simp] theorem State.setCmd_olen (v : Half) : (s.setCmd v).olen = s.olen := rfl
@[simp] theorem State.setCmd_ilen (v : Half) : (s.setCmd v).ilen = s.ilen := rfl
@[simp] theorem State.setCmd_obuf (v : Half) : (s.setCmd v).obuf = s.obuf := rfl
@[simp] theorem State.setCmd_ibuf (v : Half) : (s.setCmd v).ibuf = s.ibuf := rfl
@[simp] theorem State.setCmd_cfg (v : Half) : (s.setCmd v).cfg = s.cfg := rfl
@[simp] theorem State.setCmd_par (v : Half) : (s.setCmd v).par = s.par := rfl
@[simp] theorem State.setCmd_timeIn (v : Half) : (s.setCmd v).timeIn = s.timeIn := rfl
@[simp] theorem State.setCmd_smpIn (v : Half) : (s.setCmd v).smpIn = s.smpIn := rfl
@[simp] theorem State.setCmd_draws (v : Half) : (s.setCmd v).draws = s.draws := rfl
@[simp] theorem State.setCmd_session (v : Half) : (s.setCmd v).session = s.session := rfl
@[simp] theorem State.setCmd_now (v : Half) : (s.setCmd v).now = s.now := rfl
@[simp] theorem State.setCmd_intervalDiv (v : Half) : (s.setCmd v).intervalDiv = s.intervalDiv := rfl
@[simp] theorem State.setCmd_ticksPerMs (v : Half) : (s.setCmd v).ticksPerMs = s.ticksPerMs := rfl
@[simp] theorem State.setCmd_wire (v : Half) : (s.setCmd v).wire = s.wire := rfl
@[simp] theorem State.setCmd_hostBytes (v : Half) : (s.setCmd v).hostBytes = s.hostBytes := rfl
@[simp] theorem State.setCmd_hostWord (v : Half) : (s.setCmd v).hostWord = s.hostWord := rfl
@[simp] theorem State.setCmd_outcome (v : Half) : (s.setCmd v).outcome = s.outcome := rfl
@[simp] theorem State.setCmd_pending (v : Half) : (s.setCmd v).pending = s.pending := rfl
end setCmdFields

section setRdataFields
@[simp] theorem State.setRdata_ctrl (v : Half) : (s.setRdata v).ctrl = s.ctrl := rfl
@[simp] theorem State.setRdata_status (v : Half) : (s.setRdata v).status = s.status := rfl
@[simp] theorem State.setRdata_fault (v : Half) : (s.setRdata v).fault = s.fault := rfl
@[simp] theorem State.setRdata_crc (v : Half) : (s.setRdata v).crc = s.crc := rfl
@[simp] theorem State.setRdata_cmd (v : Half) : (s.setRdata v).cmd = s.cmd := rfl
@[simp] theorem State.setRdata_rdata (v : Half) : (s.setRdata v).rdata = v := rfl
@[simp] theorem State.setRdata_olen (v : Half) : (s.setRdata v).olen = s.olen := rfl
@[simp] theorem State.setRdata_ilen (v : Half) : (s.setRdata v).ilen = s.ilen := rfl
@[simp] theorem State.setRdata_obuf (v : Half) : (s.setRdata v).obuf = s.obuf := rfl
@[simp] theorem State.setRdata_ibuf (v : Half) : (s.setRdata v).ibuf = s.ibuf := rfl
@[simp] theorem State.setRdata_cfg (v : Half) : (s.setRdata v).cfg = s.cfg := rfl
@[simp] theorem State.setRdata_par (v : Half) : (s.setRdata v).par = s.par := rfl
@[simp] theorem State.setRdata_timeIn (v : Half) : (s.setRdata v).timeIn = s.timeIn := rfl
@[simp] theorem State.setRdata_smpIn (v : Half) : (s.setRdata v).smpIn = s.smpIn := rfl
@[simp] theorem State.setRdata_draws (v : Half) : (s.setRdata v).draws = s.draws := rfl
@[simp] theorem State.setRdata_session (v : Half) : (s.setRdata v).session = s.session := rfl
@[simp] theorem State.setRdata_now (v : Half) : (s.setRdata v).now = s.now := rfl
@[simp] theorem State.setRdata_intervalDiv (v : Half) : (s.setRdata v).intervalDiv = s.intervalDiv := rfl
@[simp] theorem State.setRdata_ticksPerMs (v : Half) : (s.setRdata v).ticksPerMs = s.ticksPerMs := rfl
@[simp] theorem State.setRdata_wire (v : Half) : (s.setRdata v).wire = s.wire := rfl
@[simp] theorem State.setRdata_hostBytes (v : Half) : (s.setRdata v).hostBytes = s.hostBytes := rfl
@[simp] theorem State.setRdata_hostWord (v : Half) : (s.setRdata v).hostWord = s.hostWord := rfl
@[simp] theorem State.setRdata_outcome (v : Half) : (s.setRdata v).outcome = s.outcome := rfl
@[simp] theorem State.setRdata_pending (v : Half) : (s.setRdata v).pending = s.pending := rfl
end setRdataFields

section setOutFields
@[simp] theorem State.setOut_ctrl (m : Memory) (v : Half) : (s.setOut m v).ctrl = s.ctrl := rfl
@[simp] theorem State.setOut_status (m : Memory) (v : Half) : (s.setOut m v).status = s.status := rfl
@[simp] theorem State.setOut_fault (m : Memory) (v : Half) : (s.setOut m v).fault = s.fault := rfl
@[simp] theorem State.setOut_crc (m : Memory) (v : Half) : (s.setOut m v).crc = s.crc := rfl
@[simp] theorem State.setOut_cmd (m : Memory) (v : Half) : (s.setOut m v).cmd = s.cmd := rfl
@[simp] theorem State.setOut_rdata (m : Memory) (v : Half) : (s.setOut m v).rdata = s.rdata := rfl
@[simp] theorem State.setOut_olen (m : Memory) (v : Half) : (s.setOut m v).olen = v := rfl
@[simp] theorem State.setOut_ilen (m : Memory) (v : Half) : (s.setOut m v).ilen = s.ilen := rfl
@[simp] theorem State.setOut_obuf (m : Memory) (v : Half) : (s.setOut m v).obuf = m := rfl
@[simp] theorem State.setOut_ibuf (m : Memory) (v : Half) : (s.setOut m v).ibuf = s.ibuf := rfl
@[simp] theorem State.setOut_cfg (m : Memory) (v : Half) : (s.setOut m v).cfg = s.cfg := rfl
@[simp] theorem State.setOut_par (m : Memory) (v : Half) : (s.setOut m v).par = s.par := rfl
@[simp] theorem State.setOut_timeIn (m : Memory) (v : Half) : (s.setOut m v).timeIn = s.timeIn := rfl
@[simp] theorem State.setOut_smpIn (m : Memory) (v : Half) : (s.setOut m v).smpIn = s.smpIn := rfl
@[simp] theorem State.setOut_draws (m : Memory) (v : Half) : (s.setOut m v).draws = s.draws := rfl
@[simp] theorem State.setOut_session (m : Memory) (v : Half) : (s.setOut m v).session = s.session := rfl
@[simp] theorem State.setOut_now (m : Memory) (v : Half) : (s.setOut m v).now = s.now := rfl
@[simp] theorem State.setOut_intervalDiv (m : Memory) (v : Half) : (s.setOut m v).intervalDiv = s.intervalDiv := rfl
@[simp] theorem State.setOut_ticksPerMs (m : Memory) (v : Half) : (s.setOut m v).ticksPerMs = s.ticksPerMs := rfl
@[simp] theorem State.setOut_wire (m : Memory) (v : Half) : (s.setOut m v).wire = s.wire := rfl
@[simp] theorem State.setOut_hostBytes (m : Memory) (v : Half) : (s.setOut m v).hostBytes = s.hostBytes := rfl
@[simp] theorem State.setOut_hostWord (m : Memory) (v : Half) : (s.setOut m v).hostWord = s.hostWord := rfl
@[simp] theorem State.setOut_outcome (m : Memory) (v : Half) : (s.setOut m v).outcome = s.outcome := rfl
@[simp] theorem State.setOut_pending (m : Memory) (v : Half) : (s.setOut m v).pending = s.pending := rfl
end setOutFields

section setInFields
@[simp] theorem State.setIn_ctrl (m : Memory) (v : Half) : (s.setIn m v).ctrl = s.ctrl := rfl
@[simp] theorem State.setIn_status (m : Memory) (v : Half) : (s.setIn m v).status = s.status := rfl
@[simp] theorem State.setIn_fault (m : Memory) (v : Half) : (s.setIn m v).fault = s.fault := rfl
@[simp] theorem State.setIn_crc (m : Memory) (v : Half) : (s.setIn m v).crc = s.crc := rfl
@[simp] theorem State.setIn_cmd (m : Memory) (v : Half) : (s.setIn m v).cmd = s.cmd := rfl
@[simp] theorem State.setIn_rdata (m : Memory) (v : Half) : (s.setIn m v).rdata = s.rdata := rfl
@[simp] theorem State.setIn_olen (m : Memory) (v : Half) : (s.setIn m v).olen = s.olen := rfl
@[simp] theorem State.setIn_ilen (m : Memory) (v : Half) : (s.setIn m v).ilen = v := rfl
@[simp] theorem State.setIn_obuf (m : Memory) (v : Half) : (s.setIn m v).obuf = s.obuf := rfl
@[simp] theorem State.setIn_ibuf (m : Memory) (v : Half) : (s.setIn m v).ibuf = m := rfl
@[simp] theorem State.setIn_cfg (m : Memory) (v : Half) : (s.setIn m v).cfg = s.cfg := rfl
@[simp] theorem State.setIn_par (m : Memory) (v : Half) : (s.setIn m v).par = s.par := rfl
@[simp] theorem State.setIn_timeIn (m : Memory) (v : Half) : (s.setIn m v).timeIn = s.timeIn := rfl
@[simp] theorem State.setIn_smpIn (m : Memory) (v : Half) : (s.setIn m v).smpIn = s.smpIn := rfl
@[simp] theorem State.setIn_draws (m : Memory) (v : Half) : (s.setIn m v).draws = s.draws := rfl
@[simp] theorem State.setIn_session (m : Memory) (v : Half) : (s.setIn m v).session = s.session := rfl
@[simp] theorem State.setIn_now (m : Memory) (v : Half) : (s.setIn m v).now = s.now := rfl
@[simp] theorem State.setIn_intervalDiv (m : Memory) (v : Half) : (s.setIn m v).intervalDiv = s.intervalDiv := rfl
@[simp] theorem State.setIn_ticksPerMs (m : Memory) (v : Half) : (s.setIn m v).ticksPerMs = s.ticksPerMs := rfl
@[simp] theorem State.setIn_wire (m : Memory) (v : Half) : (s.setIn m v).wire = s.wire := rfl
@[simp] theorem State.setIn_hostBytes (m : Memory) (v : Half) : (s.setIn m v).hostBytes = s.hostBytes := rfl
@[simp] theorem State.setIn_hostWord (m : Memory) (v : Half) : (s.setIn m v).hostWord = s.hostWord := rfl
@[simp] theorem State.setIn_outcome (m : Memory) (v : Half) : (s.setIn m v).outcome = s.outcome := rfl
@[simp] theorem State.setIn_pending (m : Memory) (v : Half) : (s.setIn m v).pending = s.pending := rfl
end setInFields

section setInputsFields
@[simp] theorem State.setInputs_ctrl (t : Option TimeIn) (x : Option Sample) : (s.setInputs t x).ctrl = s.ctrl := rfl
@[simp] theorem State.setInputs_status (t : Option TimeIn) (x : Option Sample) : (s.setInputs t x).status = s.status := rfl
@[simp] theorem State.setInputs_fault (t : Option TimeIn) (x : Option Sample) : (s.setInputs t x).fault = s.fault := rfl
@[simp] theorem State.setInputs_crc (t : Option TimeIn) (x : Option Sample) : (s.setInputs t x).crc = s.crc := rfl
@[simp] theorem State.setInputs_cmd (t : Option TimeIn) (x : Option Sample) : (s.setInputs t x).cmd = s.cmd := rfl
@[simp] theorem State.setInputs_rdata (t : Option TimeIn) (x : Option Sample) : (s.setInputs t x).rdata = s.rdata := rfl
@[simp] theorem State.setInputs_olen (t : Option TimeIn) (x : Option Sample) : (s.setInputs t x).olen = s.olen := rfl
@[simp] theorem State.setInputs_ilen (t : Option TimeIn) (x : Option Sample) : (s.setInputs t x).ilen = s.ilen := rfl
@[simp] theorem State.setInputs_obuf (t : Option TimeIn) (x : Option Sample) : (s.setInputs t x).obuf = s.obuf := rfl
@[simp] theorem State.setInputs_ibuf (t : Option TimeIn) (x : Option Sample) : (s.setInputs t x).ibuf = s.ibuf := rfl
@[simp] theorem State.setInputs_cfg (t : Option TimeIn) (x : Option Sample) : (s.setInputs t x).cfg = s.cfg := rfl
@[simp] theorem State.setInputs_par (t : Option TimeIn) (x : Option Sample) : (s.setInputs t x).par = s.par := rfl
@[simp] theorem State.setInputs_timeIn (t : Option TimeIn) (x : Option Sample) : (s.setInputs t x).timeIn = t := rfl
@[simp] theorem State.setInputs_smpIn (t : Option TimeIn) (x : Option Sample) : (s.setInputs t x).smpIn = x := rfl
@[simp] theorem State.setInputs_draws (t : Option TimeIn) (x : Option Sample) : (s.setInputs t x).draws = s.draws := rfl
@[simp] theorem State.setInputs_session (t : Option TimeIn) (x : Option Sample) : (s.setInputs t x).session = s.session := rfl
@[simp] theorem State.setInputs_now (t : Option TimeIn) (x : Option Sample) : (s.setInputs t x).now = s.now := rfl
@[simp] theorem State.setInputs_intervalDiv (t : Option TimeIn) (x : Option Sample) : (s.setInputs t x).intervalDiv = s.intervalDiv := rfl
@[simp] theorem State.setInputs_ticksPerMs (t : Option TimeIn) (x : Option Sample) : (s.setInputs t x).ticksPerMs = s.ticksPerMs := rfl
@[simp] theorem State.setInputs_wire (t : Option TimeIn) (x : Option Sample) : (s.setInputs t x).wire = s.wire := rfl
@[simp] theorem State.setInputs_hostBytes (t : Option TimeIn) (x : Option Sample) : (s.setInputs t x).hostBytes = s.hostBytes := rfl
@[simp] theorem State.setInputs_hostWord (t : Option TimeIn) (x : Option Sample) : (s.setInputs t x).hostWord = s.hostWord := rfl
@[simp] theorem State.setInputs_outcome (t : Option TimeIn) (x : Option Sample) : (s.setInputs t x).outcome = s.outcome := rfl
@[simp] theorem State.setInputs_pending (t : Option TimeIn) (x : Option Sample) : (s.setInputs t x).pending = s.pending := rfl
end setInputsFields

section takeInputsFields
@[simp] theorem State.takeInputs_ctrl : (s.takeInputs).ctrl = s.ctrl := rfl
@[simp] theorem State.takeInputs_status : (s.takeInputs).status = s.status := rfl
@[simp] theorem State.takeInputs_fault : (s.takeInputs).fault = s.fault := rfl
@[simp] theorem State.takeInputs_crc : (s.takeInputs).crc = s.crc := rfl
@[simp] theorem State.takeInputs_cmd : (s.takeInputs).cmd = s.cmd := rfl
@[simp] theorem State.takeInputs_rdata : (s.takeInputs).rdata = s.rdata := rfl
@[simp] theorem State.takeInputs_olen : (s.takeInputs).olen = s.olen := rfl
@[simp] theorem State.takeInputs_ilen : (s.takeInputs).ilen = s.ilen := rfl
@[simp] theorem State.takeInputs_obuf : (s.takeInputs).obuf = s.obuf := rfl
@[simp] theorem State.takeInputs_ibuf : (s.takeInputs).ibuf = s.ibuf := rfl
@[simp] theorem State.takeInputs_cfg : (s.takeInputs).cfg = s.cfg := rfl
@[simp] theorem State.takeInputs_par : (s.takeInputs).par = s.par := rfl
@[simp] theorem State.takeInputs_timeIn : (s.takeInputs).timeIn = none := rfl
@[simp] theorem State.takeInputs_smpIn : (s.takeInputs).smpIn = none := rfl
@[simp] theorem State.takeInputs_draws : (s.takeInputs).draws = s.draws + 1 := rfl
@[simp] theorem State.takeInputs_session : (s.takeInputs).session = s.session := rfl
@[simp] theorem State.takeInputs_now : (s.takeInputs).now = s.now := rfl
@[simp] theorem State.takeInputs_intervalDiv : (s.takeInputs).intervalDiv = s.intervalDiv := rfl
@[simp] theorem State.takeInputs_ticksPerMs : (s.takeInputs).ticksPerMs = s.ticksPerMs := rfl
@[simp] theorem State.takeInputs_wire : (s.takeInputs).wire = s.wire := rfl
@[simp] theorem State.takeInputs_hostBytes : (s.takeInputs).hostBytes = s.hostBytes := rfl
@[simp] theorem State.takeInputs_hostWord : (s.takeInputs).hostWord = s.hostWord := rfl
@[simp] theorem State.takeInputs_outcome : (s.takeInputs).outcome = s.outcome := rfl
@[simp] theorem State.takeInputs_pending : (s.takeInputs).pending = s.pending := rfl
end takeInputsFields

section setSessionFields
@[simp] theorem State.setSession_ctrl (o : Option Session) : (s.setSession o).ctrl = s.ctrl := rfl
@[simp] theorem State.setSession_status (o : Option Session) : (s.setSession o).status = s.status := rfl
@[simp] theorem State.setSession_fault (o : Option Session) : (s.setSession o).fault = s.fault := rfl
@[simp] theorem State.setSession_crc (o : Option Session) : (s.setSession o).crc = s.crc := rfl
@[simp] theorem State.setSession_cmd (o : Option Session) : (s.setSession o).cmd = s.cmd := rfl
@[simp] theorem State.setSession_rdata (o : Option Session) : (s.setSession o).rdata = s.rdata := rfl
@[simp] theorem State.setSession_olen (o : Option Session) : (s.setSession o).olen = s.olen := rfl
@[simp] theorem State.setSession_ilen (o : Option Session) : (s.setSession o).ilen = s.ilen := rfl
@[simp] theorem State.setSession_obuf (o : Option Session) : (s.setSession o).obuf = s.obuf := rfl
@[simp] theorem State.setSession_ibuf (o : Option Session) : (s.setSession o).ibuf = s.ibuf := rfl
@[simp] theorem State.setSession_cfg (o : Option Session) : (s.setSession o).cfg = s.cfg := rfl
@[simp] theorem State.setSession_par (o : Option Session) : (s.setSession o).par = s.par := rfl
@[simp] theorem State.setSession_timeIn (o : Option Session) : (s.setSession o).timeIn = s.timeIn := rfl
@[simp] theorem State.setSession_smpIn (o : Option Session) : (s.setSession o).smpIn = s.smpIn := rfl
@[simp] theorem State.setSession_draws (o : Option Session) : (s.setSession o).draws = s.draws := rfl
@[simp] theorem State.setSession_session (o : Option Session) : (s.setSession o).session = o := rfl
@[simp] theorem State.setSession_now (o : Option Session) : (s.setSession o).now = s.now := rfl
@[simp] theorem State.setSession_intervalDiv (o : Option Session) : (s.setSession o).intervalDiv = s.intervalDiv := rfl
@[simp] theorem State.setSession_ticksPerMs (o : Option Session) : (s.setSession o).ticksPerMs = s.ticksPerMs := rfl
@[simp] theorem State.setSession_wire (o : Option Session) : (s.setSession o).wire = s.wire := rfl
@[simp] theorem State.setSession_hostBytes (o : Option Session) : (s.setSession o).hostBytes = s.hostBytes := rfl
@[simp] theorem State.setSession_hostWord (o : Option Session) : (s.setSession o).hostWord = s.hostWord := rfl
@[simp] theorem State.setSession_outcome (o : Option Session) : (s.setSession o).outcome = s.outcome := rfl
@[simp] theorem State.setSession_pending (o : Option Session) : (s.setSession o).pending = s.pending := rfl
end setSessionFields

section setNowFields
@[simp] theorem State.setNow_ctrl (n : Nat) : (s.setNow n).ctrl = s.ctrl := rfl
@[simp] theorem State.setNow_status (n : Nat) : (s.setNow n).status = s.status := rfl
@[simp] theorem State.setNow_fault (n : Nat) : (s.setNow n).fault = s.fault := rfl
@[simp] theorem State.setNow_crc (n : Nat) : (s.setNow n).crc = s.crc := rfl
@[simp] theorem State.setNow_cmd (n : Nat) : (s.setNow n).cmd = s.cmd := rfl
@[simp] theorem State.setNow_rdata (n : Nat) : (s.setNow n).rdata = s.rdata := rfl
@[simp] theorem State.setNow_olen (n : Nat) : (s.setNow n).olen = s.olen := rfl
@[simp] theorem State.setNow_ilen (n : Nat) : (s.setNow n).ilen = s.ilen := rfl
@[simp] theorem State.setNow_obuf (n : Nat) : (s.setNow n).obuf = s.obuf := rfl
@[simp] theorem State.setNow_ibuf (n : Nat) : (s.setNow n).ibuf = s.ibuf := rfl
@[simp] theorem State.setNow_cfg (n : Nat) : (s.setNow n).cfg = s.cfg := rfl
@[simp] theorem State.setNow_par (n : Nat) : (s.setNow n).par = s.par := rfl
@[simp] theorem State.setNow_timeIn (n : Nat) : (s.setNow n).timeIn = s.timeIn := rfl
@[simp] theorem State.setNow_smpIn (n : Nat) : (s.setNow n).smpIn = s.smpIn := rfl
@[simp] theorem State.setNow_draws (n : Nat) : (s.setNow n).draws = s.draws := rfl
@[simp] theorem State.setNow_session (n : Nat) : (s.setNow n).session = s.session := rfl
@[simp] theorem State.setNow_now (n : Nat) : (s.setNow n).now = n := rfl
@[simp] theorem State.setNow_intervalDiv (n : Nat) : (s.setNow n).intervalDiv = s.intervalDiv := rfl
@[simp] theorem State.setNow_ticksPerMs (n : Nat) : (s.setNow n).ticksPerMs = s.ticksPerMs := rfl
@[simp] theorem State.setNow_wire (n : Nat) : (s.setNow n).wire = s.wire := rfl
@[simp] theorem State.setNow_hostBytes (n : Nat) : (s.setNow n).hostBytes = s.hostBytes := rfl
@[simp] theorem State.setNow_hostWord (n : Nat) : (s.setNow n).hostWord = s.hostWord := rfl
@[simp] theorem State.setNow_outcome (n : Nat) : (s.setNow n).outcome = s.outcome := rfl
@[simp] theorem State.setNow_pending (n : Nat) : (s.setNow n).pending = s.pending := rfl
end setNowFields

section addWireFields
@[simp] theorem State.addWire_ctrl (bs : List Byte) : (s.addWire bs).ctrl = s.ctrl := rfl
@[simp] theorem State.addWire_status (bs : List Byte) : (s.addWire bs).status = s.status := rfl
@[simp] theorem State.addWire_fault (bs : List Byte) : (s.addWire bs).fault = s.fault := rfl
@[simp] theorem State.addWire_crc (bs : List Byte) : (s.addWire bs).crc = s.crc := rfl
@[simp] theorem State.addWire_cmd (bs : List Byte) : (s.addWire bs).cmd = s.cmd := rfl
@[simp] theorem State.addWire_rdata (bs : List Byte) : (s.addWire bs).rdata = s.rdata := rfl
@[simp] theorem State.addWire_olen (bs : List Byte) : (s.addWire bs).olen = s.olen := rfl
@[simp] theorem State.addWire_ilen (bs : List Byte) : (s.addWire bs).ilen = s.ilen := rfl
@[simp] theorem State.addWire_obuf (bs : List Byte) : (s.addWire bs).obuf = s.obuf := rfl
@[simp] theorem State.addWire_ibuf (bs : List Byte) : (s.addWire bs).ibuf = s.ibuf := rfl
@[simp] theorem State.addWire_cfg (bs : List Byte) : (s.addWire bs).cfg = s.cfg := rfl
@[simp] theorem State.addWire_par (bs : List Byte) : (s.addWire bs).par = s.par := rfl
@[simp] theorem State.addWire_timeIn (bs : List Byte) : (s.addWire bs).timeIn = s.timeIn := rfl
@[simp] theorem State.addWire_smpIn (bs : List Byte) : (s.addWire bs).smpIn = s.smpIn := rfl
@[simp] theorem State.addWire_draws (bs : List Byte) : (s.addWire bs).draws = s.draws := rfl
@[simp] theorem State.addWire_session (bs : List Byte) : (s.addWire bs).session = s.session := rfl
@[simp] theorem State.addWire_now (bs : List Byte) : (s.addWire bs).now = s.now := rfl
@[simp] theorem State.addWire_intervalDiv (bs : List Byte) : (s.addWire bs).intervalDiv = s.intervalDiv := rfl
@[simp] theorem State.addWire_ticksPerMs (bs : List Byte) : (s.addWire bs).ticksPerMs = s.ticksPerMs := rfl
@[simp] theorem State.addWire_wire (bs : List Byte) : (s.addWire bs).wire = s.wire ++ [bs] := rfl
@[simp] theorem State.addWire_hostBytes (bs : List Byte) : (s.addWire bs).hostBytes = s.hostBytes := rfl
@[simp] theorem State.addWire_hostWord (bs : List Byte) : (s.addWire bs).hostWord = s.hostWord := rfl
@[simp] theorem State.addWire_outcome (bs : List Byte) : (s.addWire bs).outcome = s.outcome := rfl
@[simp] theorem State.addWire_pending (bs : List Byte) : (s.addWire bs).pending = s.pending := rfl
end addWireFields

section setHostBytesFields
@[simp] theorem State.setHostBytes_ctrl (bs : List Byte) : (s.setHostBytes bs).ctrl = s.ctrl := rfl
@[simp] theorem State.setHostBytes_status (bs : List Byte) : (s.setHostBytes bs).status = s.status := rfl
@[simp] theorem State.setHostBytes_fault (bs : List Byte) : (s.setHostBytes bs).fault = s.fault := rfl
@[simp] theorem State.setHostBytes_crc (bs : List Byte) : (s.setHostBytes bs).crc = s.crc := rfl
@[simp] theorem State.setHostBytes_cmd (bs : List Byte) : (s.setHostBytes bs).cmd = s.cmd := rfl
@[simp] theorem State.setHostBytes_rdata (bs : List Byte) : (s.setHostBytes bs).rdata = s.rdata := rfl
@[simp] theorem State.setHostBytes_olen (bs : List Byte) : (s.setHostBytes bs).olen = s.olen := rfl
@[simp] theorem State.setHostBytes_ilen (bs : List Byte) : (s.setHostBytes bs).ilen = s.ilen := rfl
@[simp] theorem State.setHostBytes_obuf (bs : List Byte) : (s.setHostBytes bs).obuf = s.obuf := rfl
@[simp] theorem State.setHostBytes_ibuf (bs : List Byte) : (s.setHostBytes bs).ibuf = s.ibuf := rfl
@[simp] theorem State.setHostBytes_cfg (bs : List Byte) : (s.setHostBytes bs).cfg = s.cfg := rfl
@[simp] theorem State.setHostBytes_par (bs : List Byte) : (s.setHostBytes bs).par = s.par := rfl
@[simp] theorem State.setHostBytes_timeIn (bs : List Byte) : (s.setHostBytes bs).timeIn = s.timeIn := rfl
@[simp] theorem State.setHostBytes_smpIn (bs : List Byte) : (s.setHostBytes bs).smpIn = s.smpIn := rfl
@[simp] theorem State.setHostBytes_draws (bs : List Byte) : (s.setHostBytes bs).draws = s.draws := rfl
@[simp] theorem State.setHostBytes_session (bs : List Byte) : (s.setHostBytes bs).session = s.session := rfl
@[simp] theorem State.setHostBytes_now (bs : List Byte) : (s.setHostBytes bs).now = s.now := rfl
@[simp] theorem State.setHostBytes_intervalDiv (bs : List Byte) : (s.setHostBytes bs).intervalDiv = s.intervalDiv := rfl
@[simp] theorem State.setHostBytes_ticksPerMs (bs : List Byte) : (s.setHostBytes bs).ticksPerMs = s.ticksPerMs := rfl
@[simp] theorem State.setHostBytes_wire (bs : List Byte) : (s.setHostBytes bs).wire = s.wire := rfl
@[simp] theorem State.setHostBytes_hostBytes (bs : List Byte) : (s.setHostBytes bs).hostBytes = bs := rfl
@[simp] theorem State.setHostBytes_hostWord (bs : List Byte) : (s.setHostBytes bs).hostWord = s.hostWord := rfl
@[simp] theorem State.setHostBytes_outcome (bs : List Byte) : (s.setHostBytes bs).outcome = s.outcome := rfl
@[simp] theorem State.setHostBytes_pending (bs : List Byte) : (s.setHostBytes bs).pending = s.pending := rfl
end setHostBytesFields

section setHostWordFields
@[simp] theorem State.setHostWord_ctrl (v : Half) : (s.setHostWord v).ctrl = s.ctrl := rfl
@[simp] theorem State.setHostWord_status (v : Half) : (s.setHostWord v).status = s.status := rfl
@[simp] theorem State.setHostWord_fault (v : Half) : (s.setHostWord v).fault = s.fault := rfl
@[simp] theorem State.setHostWord_crc (v : Half) : (s.setHostWord v).crc = s.crc := rfl
@[simp] theorem State.setHostWord_cmd (v : Half) : (s.setHostWord v).cmd = s.cmd := rfl
@[simp] theorem State.setHostWord_rdata (v : Half) : (s.setHostWord v).rdata = s.rdata := rfl
@[simp] theorem State.setHostWord_olen (v : Half) : (s.setHostWord v).olen = s.olen := rfl
@[simp] theorem State.setHostWord_ilen (v : Half) : (s.setHostWord v).ilen = s.ilen := rfl
@[simp] theorem State.setHostWord_obuf (v : Half) : (s.setHostWord v).obuf = s.obuf := rfl
@[simp] theorem State.setHostWord_ibuf (v : Half) : (s.setHostWord v).ibuf = s.ibuf := rfl
@[simp] theorem State.setHostWord_cfg (v : Half) : (s.setHostWord v).cfg = s.cfg := rfl
@[simp] theorem State.setHostWord_par (v : Half) : (s.setHostWord v).par = s.par := rfl
@[simp] theorem State.setHostWord_timeIn (v : Half) : (s.setHostWord v).timeIn = s.timeIn := rfl
@[simp] theorem State.setHostWord_smpIn (v : Half) : (s.setHostWord v).smpIn = s.smpIn := rfl
@[simp] theorem State.setHostWord_draws (v : Half) : (s.setHostWord v).draws = s.draws := rfl
@[simp] theorem State.setHostWord_session (v : Half) : (s.setHostWord v).session = s.session := rfl
@[simp] theorem State.setHostWord_now (v : Half) : (s.setHostWord v).now = s.now := rfl
@[simp] theorem State.setHostWord_intervalDiv (v : Half) : (s.setHostWord v).intervalDiv = s.intervalDiv := rfl
@[simp] theorem State.setHostWord_ticksPerMs (v : Half) : (s.setHostWord v).ticksPerMs = s.ticksPerMs := rfl
@[simp] theorem State.setHostWord_wire (v : Half) : (s.setHostWord v).wire = s.wire := rfl
@[simp] theorem State.setHostWord_hostBytes (v : Half) : (s.setHostWord v).hostBytes = s.hostBytes := rfl
@[simp] theorem State.setHostWord_hostWord (v : Half) : (s.setHostWord v).hostWord = v := rfl
@[simp] theorem State.setHostWord_outcome (v : Half) : (s.setHostWord v).outcome = s.outcome := rfl
@[simp] theorem State.setHostWord_pending (v : Half) : (s.setHostWord v).pending = s.pending := rfl
end setHostWordFields

section setOutcomeFields
@[simp] theorem State.setOutcome_ctrl (e : Option OpOutcome) : (s.setOutcome e).ctrl = s.ctrl := rfl
@[simp] theorem State.setOutcome_status (e : Option OpOutcome) : (s.setOutcome e).status = s.status := rfl
@[simp] theorem State.setOutcome_fault (e : Option OpOutcome) : (s.setOutcome e).fault = s.fault := rfl
@[simp] theorem State.setOutcome_crc (e : Option OpOutcome) : (s.setOutcome e).crc = s.crc := rfl
@[simp] theorem State.setOutcome_cmd (e : Option OpOutcome) : (s.setOutcome e).cmd = s.cmd := rfl
@[simp] theorem State.setOutcome_rdata (e : Option OpOutcome) : (s.setOutcome e).rdata = s.rdata := rfl
@[simp] theorem State.setOutcome_olen (e : Option OpOutcome) : (s.setOutcome e).olen = s.olen := rfl
@[simp] theorem State.setOutcome_ilen (e : Option OpOutcome) : (s.setOutcome e).ilen = s.ilen := rfl
@[simp] theorem State.setOutcome_obuf (e : Option OpOutcome) : (s.setOutcome e).obuf = s.obuf := rfl
@[simp] theorem State.setOutcome_ibuf (e : Option OpOutcome) : (s.setOutcome e).ibuf = s.ibuf := rfl
@[simp] theorem State.setOutcome_cfg (e : Option OpOutcome) : (s.setOutcome e).cfg = s.cfg := rfl
@[simp] theorem State.setOutcome_par (e : Option OpOutcome) : (s.setOutcome e).par = s.par := rfl
@[simp] theorem State.setOutcome_timeIn (e : Option OpOutcome) : (s.setOutcome e).timeIn = s.timeIn := rfl
@[simp] theorem State.setOutcome_smpIn (e : Option OpOutcome) : (s.setOutcome e).smpIn = s.smpIn := rfl
@[simp] theorem State.setOutcome_draws (e : Option OpOutcome) : (s.setOutcome e).draws = s.draws := rfl
@[simp] theorem State.setOutcome_session (e : Option OpOutcome) : (s.setOutcome e).session = s.session := rfl
@[simp] theorem State.setOutcome_now (e : Option OpOutcome) : (s.setOutcome e).now = s.now := rfl
@[simp] theorem State.setOutcome_intervalDiv (e : Option OpOutcome) : (s.setOutcome e).intervalDiv = s.intervalDiv := rfl
@[simp] theorem State.setOutcome_ticksPerMs (e : Option OpOutcome) : (s.setOutcome e).ticksPerMs = s.ticksPerMs := rfl
@[simp] theorem State.setOutcome_wire (e : Option OpOutcome) : (s.setOutcome e).wire = s.wire := rfl
@[simp] theorem State.setOutcome_hostBytes (e : Option OpOutcome) : (s.setOutcome e).hostBytes = s.hostBytes := rfl
@[simp] theorem State.setOutcome_hostWord (e : Option OpOutcome) : (s.setOutcome e).hostWord = s.hostWord := rfl
@[simp] theorem State.setOutcome_outcome (e : Option OpOutcome) : (s.setOutcome e).outcome = e := rfl
@[simp] theorem State.setOutcome_pending (e : Option OpOutcome) : (s.setOutcome e).pending = s.pending := rfl
end setOutcomeFields

section setPendingFields
@[simp] theorem State.setPending_ctrl (q : List HostMove) : (s.setPending q).ctrl = s.ctrl := rfl
@[simp] theorem State.setPending_status (q : List HostMove) : (s.setPending q).status = s.status := rfl
@[simp] theorem State.setPending_fault (q : List HostMove) : (s.setPending q).fault = s.fault := rfl
@[simp] theorem State.setPending_crc (q : List HostMove) : (s.setPending q).crc = s.crc := rfl
@[simp] theorem State.setPending_cmd (q : List HostMove) : (s.setPending q).cmd = s.cmd := rfl
@[simp] theorem State.setPending_rdata (q : List HostMove) : (s.setPending q).rdata = s.rdata := rfl
@[simp] theorem State.setPending_olen (q : List HostMove) : (s.setPending q).olen = s.olen := rfl
@[simp] theorem State.setPending_ilen (q : List HostMove) : (s.setPending q).ilen = s.ilen := rfl
@[simp] theorem State.setPending_obuf (q : List HostMove) : (s.setPending q).obuf = s.obuf := rfl
@[simp] theorem State.setPending_ibuf (q : List HostMove) : (s.setPending q).ibuf = s.ibuf := rfl
@[simp] theorem State.setPending_cfg (q : List HostMove) : (s.setPending q).cfg = s.cfg := rfl
@[simp] theorem State.setPending_par (q : List HostMove) : (s.setPending q).par = s.par := rfl
@[simp] theorem State.setPending_timeIn (q : List HostMove) : (s.setPending q).timeIn = s.timeIn := rfl
@[simp] theorem State.setPending_smpIn (q : List HostMove) : (s.setPending q).smpIn = s.smpIn := rfl
@[simp] theorem State.setPending_draws (q : List HostMove) : (s.setPending q).draws = s.draws := rfl
@[simp] theorem State.setPending_session (q : List HostMove) : (s.setPending q).session = s.session := rfl
@[simp] theorem State.setPending_now (q : List HostMove) : (s.setPending q).now = s.now := rfl
@[simp] theorem State.setPending_intervalDiv (q : List HostMove) : (s.setPending q).intervalDiv = s.intervalDiv := rfl
@[simp] theorem State.setPending_ticksPerMs (q : List HostMove) : (s.setPending q).ticksPerMs = s.ticksPerMs := rfl
@[simp] theorem State.setPending_wire (q : List HostMove) : (s.setPending q).wire = s.wire := rfl
@[simp] theorem State.setPending_hostBytes (q : List HostMove) : (s.setPending q).hostBytes = s.hostBytes := rfl
@[simp] theorem State.setPending_hostWord (q : List HostMove) : (s.setPending q).hostWord = s.hostWord := rfl
@[simp] theorem State.setPending_outcome (q : List HostMove) : (s.setPending q).outcome = s.outcome := rfl
@[simp] theorem State.setPending_pending (q : List HostMove) : (s.setPending q).pending = q := rfl
end setPendingFields

end Sys2Proof.Machine
end

