-- ==== Sys2Proof/Laws/Ops.lean ====
section
/-! SUPPORT. What each shared operation can do, said once: bytes and values, the append primitive, a sequence of appends, names, the header,
Finalize, and how an operation ends. -/
namespace Sys2Proof.Machine

/-! ### Bytes and values -/

@[simp] theorem bytes16_length (v : Half) : (bytes16 v).length = 2 := rfl

@[simp] theorem bytes32_length (v : Word) : (bytes32 v).length = 4 := rfl

theorem name16_length (s : List Byte) : (name16 s).length = 16 := by
  simp only [name16, List.length_take, List.length_append, List.length_replicate]
  omega

/-- Splitting a 16-bit value into bytes and joining them gives it back (R51). -/
theorem be16_bytes16 (v : Half) : be16 (v.extractLsb' 8 8) (v.extractLsb' 0 8) = v := by
  refine BitVec.eq_of_getLsbD_eq fun i hi => ?_
  simp only [be16, BitVec.getLsbD_append, BitVec.getLsbD_extractLsb']
  by_cases h : i < 8
  · simp [h]
  · have h8 : i - 8 < 8 := by omega
    have : 8 + (i - 8) = i := by omega
    simp [h, h8, this]

/-- Joining two bytes and splitting the value gives them back. -/
theorem bytes16_be16 (b0 b1 : Byte) : bytes16 (be16 b0 b1) = [b0, b1] := by
  have h0 : (be16 b0 b1).extractLsb' 8 8 = b0 := by
    ext i hi
    simp only [be16, BitVec.getElem_extractLsb', BitVec.getLsbD_append]
    rw [if_neg (by omega), Nat.add_sub_cancel_left, BitVec.getLsbD_eq_getElem hi]
  have h1 : (be16 b0 b1).extractLsb' 0 8 = b1 := by
    ext i hi
    simp only [be16, BitVec.getElem_extractLsb', BitVec.getLsbD_append]
    rw [if_pos (by omega), Nat.zero_add, BitVec.getLsbD_eq_getElem hi]
  rw [bytes16, h0, h1]

/-- One byte of a CRC (R123). -/
theorem crcFrom_cons (r : Half) (b : Byte) (bs : List Byte) : crcFrom r (b :: bs) = crcFrom (crcByte r b) bs := rfl

/-- The CRC of bytes is the left fold of crc_byte (R123). -/
theorem crcFrom_eq_foldl (r : Half) (bs : List Byte) : crcFrom r bs = bs.foldl crcByte r := by
  induction bs generalizing r with
  | nil => rfl
  | cons b bs ih => rw [crcFrom_cons, ih, List.foldl_cons]

/-- The CRC over two pieces (R126 (c)). -/
theorem crcFrom_append (r : Half) (xs ys : List Byte) : crcFrom r (xs ++ ys) = crcFrom (crcFrom r xs) ys := by
  induction xs generalizing r with
  | nil => rfl
  | cons x xs ih => exact ih _

/-! ### How an operation ends -/

@[simp] theorem Ended.going_andThen (s : State) (k : State → Ended) : (Ended.going s).andThen k = k s := rfl

@[simp] theorem Ended.raised_andThen (c : FaultCause) (s : State) (k : State → Ended) :
    (Ended.raised c s).andThen k = .raised c s := rfl

@[simp] theorem Ended.stopped_andThen (f : Fault) (k : State → Ended) : (Ended.stopped f).andThen k = .stopped f := rfl

/-- An operation outside the fault state ends as its body does. -/
theorem operation_ready {body : State → Ended} {s : State} (h : s.fault = 0) : operation body s = finish (body s) := by
  simp [operation, h]

/-- An operation in the fault state is refused. -/
theorem operation_refused {body : State → Ended} {s : State} (h : s.fault ≠ 0) :
    operation body s = .next (s.setOutcome (some .refused)) := by
  rw [operation, if_pos h]

/-- Everything an operation can do when it answers a next state. -/
theorem operation_next {body : State → Ended} {s t : State} (h : operation body s = .next t) :
    (s.fault ≠ 0 ∧ t = s.setOutcome (some .refused))
      ∨ (s.fault = 0 ∧ ∃ u, body s = .going u ∧ t = u.setOutcome (some .done))
      ∨ (s.fault = 0 ∧ ∃ c u, body s = .raised c u ∧ t = u.setOutcome (some (.fault c))) := by
  by_cases hf : s.fault = 0
  · rw [operation_ready hf] at h
    cases hb : body s with
    | going u => exact .inr (.inl ⟨hf, u, rfl, by rw [hb] at h; cases h; rfl⟩)
    | raised c u => exact .inr (.inr ⟨hf, c, u, rfl, by rw [hb] at h; cases h; rfl⟩)
    | stopped f => rw [hb] at h; cases h
  · rw [operation_refused hf] at h
    cases h
    exact .inl ⟨hf, rfl⟩

/-! ### The append primitive -/

/-- An append that fits. -/
theorem append_fits {bs : List Byte} {s : State} (h : s.olen.toNat + bs.length ≤ 65535) :
    append bs s = .going (s.setOut (s.obuf.writeBytes s.olen.toNat bs) (BitVec.ofNat 16 (s.olen.toNat + bs.length))) := by
  rw [append, if_neg (by simp only [obufCap]; omega)]

/-- An append that does not fit raises OVF, and that changes FAULT only (R101). -/
theorem append_overflows {bs : List Byte} {s : State} (h : 65535 < s.olen.toNat + bs.length) :
    append bs s = .raised .ovf (raiseFault .ovf s) := by
  rw [append, if_pos (by simpa only [obufCap] using h), raise]

/-- OBUF holds exactly `xs` and OLEN is its length. -/
structure State.OutIs (s : State) (xs : List Byte) : Prop where
  olen  : s.olen.toNat = xs.length
  holds : s.obuf.holds xs.length
  bytes : s.obuf.readBytes 0 xs.length = some xs

/-- What OBUF_READ gives of it. -/
theorem State.OutIs.obufBytes {s : State} {xs : List Byte} (h : s.OutIs xs) : s.obufBytes = some xs := by
  rw [State.obufBytes, h.olen, h.bytes]

/-- A state whose OBUF holds exactly its valid part holds some bytes. -/
theorem State.OutIs.of_holds {s : State} (h : s.obuf.holds s.olen.toNat) : ∃ xs, s.OutIs xs := by
  obtain ⟨xs, hxs⟩ := Memory.readBytes_isSome_of_holds h 0 s.olen.toNat (by omega)
  have hl := ((Memory.readBytes_eq_some_iff ..).mp hxs).1
  exact ⟨xs, hl.symm, by rw [hl]; exact h, by rw [hl]; exact hxs⟩

@[simp] theorem State.setOut_setOut (s : State) (m m' : Memory) (n n' : Half) :
    (s.setOut m n).setOut m' n' = s.setOut m' n' := rfl

theorem State.setOut_self (s : State) : s.setOut s.obuf s.olen = s := rfl

theorem State.OutIs.clearOut (s : State) : (clearOut s).OutIs [] := ⟨rfl, rfl, rfl⟩

/-- An append to known bytes. -/
theorem append_outIs {s : State} {xs bs : List Byte} (h : s.OutIs xs) (hl : xs.length + bs.length ≤ 65535) :
    ∃ m n, append bs s = .going (s.setOut m n) ∧ (s.setOut m n).OutIs (xs ++ bs) := by
  refine ⟨_, _, append_fits (by rw [h.olen]; exact hl), ?_, ?_, ?_⟩
  · simp only [State.setOut_olen, h.olen, BitVec.toNat_ofNat, List.length_append]
    omega
  · simp only [State.setOut_obuf, h.olen, List.length_append]
    have := Memory.holds_writeBytes h.holds bs (le_refl xs.length)
    rwa [max_eq_right (by omega)] at this
  · simp only [State.setOut_obuf, h.olen, List.length_append]
    refine Memory.readBytes_append _ _ _ _ _ _ ?_ ?_
    · rw [Memory.readBytes_writeBytes_outside _ _ _ _ _ (.inl (by omega)), h.bytes]
    · rw [Nat.zero_add, Memory.readBytes_writeBytes]

/-- A sequence of appends to known bytes. -/
theorem appendAll_outIs (fs : List (List Byte)) {s : State} {xs : List Byte} (h : s.OutIs xs)
    (hl : xs.length + fs.flatten.length ≤ 65535) :
    ∃ m n, appendAll fs s = .going (s.setOut m n) ∧ (s.setOut m n).OutIs (xs ++ fs.flatten) := by
  induction fs generalizing s xs with
  | nil => exact ⟨s.obuf, s.olen, rfl, by simpa [State.setOut_self] using h⟩
  | cons f fs ih =>
    simp only [List.flatten_cons, List.length_append] at hl
    obtain ⟨m, n, h1, h1'⟩ := append_outIs (bs := f) h (by omega)
    obtain ⟨m', n', h2, h2'⟩ := ih h1' (by simp only [List.length_append]; omega)
    refine ⟨m', n', ?_, ?_⟩
    · rw [appendAll, h1, Ended.going_andThen, h2, State.setOut_setOut]
    · simpa using h2'

/-! ### Names and 16-bit reads -/

/-- `PUT_NAME16` of an index that names nothing (R108). -/
theorem putName_past {k : Half} {s : State} (h : s.cfg.nph + s.cfg.nan < k.toNat) :
    putName k s = .raised .rng (raiseFault .rng s) := by
  rw [putName, if_pos h, raise]

/-- `PUT_NAME16` of an index that names something appends that name's field (R108). -/
theorem putName_within {k : Half} {s : State} (h : k.toNat ≤ s.cfg.nph + s.cfg.nan) :
    ∃ name, selectName s.cfg k.toNat = some name ∧ putName k s = append (name16 name) s := by
  have hs : ∃ name, selectName s.cfg k.toNat = some name := by
    unfold selectName
    split_ifs with h0 h1
    · exact ⟨_, rfl⟩
    · exact ⟨_, List.getElem?_eq_getElem (by simp only [Station.nph] at *; omega)⟩
    · exact ⟨_, List.getElem?_eq_getElem (by simp only [Station.nph, Station.nan] at *; omega)⟩
  obtain ⟨name, hn⟩ := hs
  exact ⟨name, hn, by rw [putName, if_neg (by omega), hn]⟩

/-- `GET_U16` past the received bytes (R110). -/
theorem getHalf_past {k : Half} {s : State} (h : s.ilen.toNat < k.toNat + 2) :
    getHalf k s = .raised .rng (raiseFault .rng s) := by
  rw [getHalf, if_pos h, raise]

/-- `GET_U16` within them (R110). -/
theorem getHalf_within {k : Half} {s : State} (hb : s.ibuf.holds s.ilen.toNat) (h : k.toNat + 2 ≤ s.ilen.toNat) :
    ∃ b0 b1, s.ibuf.read k.toNat = some b0 ∧ s.ibuf.read (k.toNat + 1) = some b1
      ∧ getHalf k s = .going (s.setRdata (be16 b0 b1)) := by
  obtain ⟨b0, h0⟩ := Option.isSome_iff_exists.mp ((Memory.read_isSome_of_holds hb k.toNat).mpr (by omega))
  obtain ⟨b1, h1⟩ := Option.isSome_iff_exists.mp ((Memory.read_isSome_of_holds hb (k.toNat + 1)).mpr (by omega))
  exact ⟨b0, b1, h0, h1, by rw [getHalf, if_neg (by omega), Memory.getU16, h0, h1]⟩

/-- Raising the first fault of a run changes FAULT only, to the cause's bit (R34, R226). -/
theorem raiseFault_first {c : FaultCause} {s : State} (h : s.fault = 0) : raiseFault c s = s.setFault (faultBit c) := by
  simp [raiseFault, h]

/-! ### The parts of a frame -/

/-- The 6 bytes of a header with the size placeholder (R143). -/
def headerBytes (s : State) (t : Byte) : List Byte :=
  [s.par.sync, t, 0x00, 0x00, s.cfg.pmuId.extractLsb' 8 8, s.cfg.pmuId.extractLsb' 0 8]

/-- `FrameBegin(t)` never fails, and leaves exactly the header (R143). -/
theorem frameBegin_outIs (t : Byte) (s : State) :
    ∃ m n, frameBegin t s = .going (s.setOut m n) ∧ (s.setOut m n).OutIs (headerBytes s t) := by
  obtain ⟨m, n, h, h'⟩ := appendAll_outIs [[s.par.sync, t], bytes16 0x0000, bytes16 s.cfg.pmuId] (State.OutIs.clearOut s)
    (by simp)
  refine ⟨m, n, ?_, ?_⟩
  · rw [frameBegin, h]
    rfl
  · exact h'

/-- `CRC <- crc16(OBUF[0..OLEN))` over known bytes (R124). -/
theorem crcOverOut_outIs {s : State} {xs : List Byte} (h : s.OutIs xs) : crcOverOut s = .going (s.setCrc (crc16 xs)) := by
  simp [crcOverOut, h.obufBytes]

/-- `Finalize` without a size field (R146). -/
theorem finalize_short {s : State} (h : s.olen.toNat < 4) : finalize s = .raised .rng (raiseFault .rng s) := by
  rw [finalize, if_pos h, raise]

/-- `Finalize` of a frame that would be too long (R147). -/
theorem finalize_long {s : State} (h : 65535 < s.olen.toNat + 2) : finalize s = .raised .ovf (raiseFault .ovf s) := by
  rw [finalize, if_neg (by omega), if_pos (by omega), raise]

/-- `Finalize` of known bytes (R145). -/
theorem finalize_outIs {s : State} {b0 b1 x y : Byte} {rest : List Byte} (h : s.OutIs ([b0, b1, x, y] ++ rest))
    (hl : rest.length + 6 ≤ 65535) :
    let covered := [b0, b1] ++ bytes16 (BitVec.ofNat 16 (rest.length + 6)) ++ rest
    ∃ m n, finalize s = .going ((s.setCrc (crc16 covered)).setOut m n)
      ∧ (s.setOut m n).OutIs (covered ++ bytes16 (crc16 covered)) := by
  intro covered
  have hlen : s.olen.toNat = rest.length + 4 := by rw [h.olen]; simp
  have hcov : covered.length = rest.length + 4 := by
    simp [covered]
    omega
  have h2 : (s.setOut (s.obuf.writeBytes 2 (bytes16 (BitVec.ofNat 16 (s.olen.toNat + 2)))) s.olen).OutIs covered := by
    refine ⟨?_, ?_, ?_⟩
    · simp only [State.setOut_olen, hlen, hcov]
    · have := Memory.holds_writeBytes h.holds (bytes16 (BitVec.ofNat 16 (s.olen.toNat + 2))) (a := 2) (by simp)
      rw [max_eq_left (by simp)] at this
      simpa [hcov] using this
    · rw [State.setOut_obuf, hcov, Memory.readBytes_eq_some_iff]
      refine ⟨hcov, fun i hi => ?_⟩
      have hi' := ((Memory.readBytes_eq_some_iff ..).mp h.bytes).2 i (by simp; omega)
      rw [Memory.read_writeBytes]
      have hn : s.olen.toNat + 2 = rest.length + 6 := by omega
      simp only [Nat.zero_add] at hi' ⊢
      rw [hi', hn]
      rcases i with _ | _ | _ | _ | i <;> simp [covered, bytes16]
  obtain ⟨m, n, h3, h3'⟩ := append_outIs (bs := bytes16 (crc16 covered))
    (s := (s.setOut (s.obuf.writeBytes 2 (bytes16 (BitVec.ofNat 16 (s.olen.toNat + 2)))) s.olen).setCrc (crc16 covered))
    (xs := covered) ⟨h2.olen, h2.holds, h2.bytes⟩ (by simp only [hcov, bytes16_length]; omega)
  refine ⟨m, n, ?_, ⟨h3'.olen, h3'.holds, h3'.bytes⟩⟩
  rw [finalize, if_neg (by omega), if_neg (by omega)]
  simp only [crcOverOut_outIs h2, Ended.going_andThen, State.setCrc_crc, h3]
  rfl

end Sys2Proof.Machine
end

