-- ==== Sys2Proof/Laws/Frames.lean ====
section
/-! SUPPORT. Whole frames: what a header, a sequence of fields and Finalize leave together; the bytes and the length of the two
frames the block builds. -/
namespace Sys2Proof.Machine

/-- Known bytes, read one by one. -/
theorem State.OutIs.read {s : State} {xs : List Byte} (h : s.OutIs xs) (a : Nat) : s.obuf.read a = xs[a]? := by
  by_cases ha : a < xs.length
  · simpa using ((Memory.readBytes_eq_some_iff ..).mp h.bytes).2 a ha
  · rw [List.getElem?_eq_none (by omega)]
    simpa using (Memory.read_isSome_of_holds h.holds a).not.mpr ha

/-- OBUF has one content: two states that hold the same bytes have the same OBUF and OLEN. -/
theorem State.OutIs.unique {s t : State} {xs : List Byte} (h : s.OutIs xs) (h' : t.OutIs xs) : s.obuf = t.obuf ∧ s.olen = t.olen :=
  ⟨Memory.ext_of_wf (Memory.wf_of_holds h.holds) (Memory.wf_of_holds h'.holds) fun a => by rw [h.read, h'.read],
    BitVec.eq_of_toNat_eq (by rw [h.olen, h'.olen])⟩

theorem frameOf_length (sync type : Byte) (id : Half) (payload : List Byte) :
    (frameOf sync type id payload).length = payload.length + 8 := by
  simp [frameOf]
  omega

/-- A frame of the common form that fits its size field is whole (R160). -/
theorem frameOf_whole (sync type : Byte) (id : Half) (payload : List Byte) (h : payload.length + 8 ≤ 65535) :
    wholeFrame (frameOf sync type id payload) := by
  generalize hn : countField (payload.length + 8) = n
  generalize hc : crc16 ([sync, type] ++ bytes16 n ++ bytes16 id ++ payload) = c
  refine ⟨sync, type, n.extractLsb' 8 8, n.extractLsb' 0 8, bytes16 id ++ payload, c.extractLsb' 8 8, c.extractLsb' 0 8,
    by simp [frameOf, bytes16, ← hn, ← hc], ?_, ?_⟩
  · rw [be16_bytes16, frameOf_length, ← hn, countField, BitVec.toNat_ofNat]
    omega
  · rw [be16_bytes16, ← hc]
    simp [bytes16]

/-- A header, fields and Finalize leave a frame of the common form (R140). -/
theorem buildFrame_outIs (t : Byte) (fs : List (List Byte)) (s : State) (h : fs.flatten.length + 8 ≤ 65535) :
    ∃ c m n, ((frameBegin t s).andThen (appendAll fs)).andThen finalize = .going ((s.setCrc c).setOut m n)
      ∧ c = crc16 ((frameOf s.par.sync t s.cfg.pmuId fs.flatten).take (fs.flatten.length + 6))
      ∧ (s.setOut m n).OutIs (frameOf s.par.sync t s.cfg.pmuId fs.flatten) := by
  obtain ⟨m1, n1, h1, o1⟩ := frameBegin_outIs t s
  obtain ⟨m2, n2, h2, o2⟩ := appendAll_outIs fs o1 (by simp only [headerBytes, List.length_cons, List.length_nil]; omega)
  have e : headerBytes s t ++ fs.flatten
      = [s.par.sync, t, 0x00, 0x00] ++ (bytes16 s.cfg.pmuId ++ fs.flatten) := by simp [headerBytes, bytes16]
  rw [e] at o2
  obtain ⟨m3, n3, h3, o3⟩ := finalize_outIs o2 (by rw [List.length_append, bytes16_length]; omega)
  have hl : (bytes16 s.cfg.pmuId ++ fs.flatten).length + 6 = fs.flatten.length + 8 := by simp; omega
  have hf : [s.par.sync, t] ++ bytes16 (BitVec.ofNat 16 ((bytes16 s.cfg.pmuId ++ fs.flatten).length + 6))
      ++ (bytes16 s.cfg.pmuId ++ fs.flatten)
      = (frameOf s.par.sync t s.cfg.pmuId fs.flatten).take (fs.flatten.length + 6) := by
    rw [hl, frameOf]
    simp only [← List.append_assoc]
    rw [List.take_left' (by simp; omega), countField]
  rw [hf] at h3 o3
  refine ⟨_, m3, n3, ?_, rfl, ?_⟩
  · rw [h1, Ended.going_andThen, h2, Ended.going_andThen, h3]
    rfl
  · have hw : (frameOf s.par.sync t s.cfg.pmuId fs.flatten).take (fs.flatten.length + 6)
        ++ bytes16 (crc16 ((frameOf s.par.sync t s.cfg.pmuId fs.flatten).take (fs.flatten.length + 6)))
        = frameOf s.par.sync t s.cfg.pmuId fs.flatten := by
      rw [← hf, hl]
      simp [frameOf, countField]
    rw [hw] at o3
    exact ⟨o3.olen, o3.holds, o3.bytes⟩

/-- The fields of the Configuration Frame, put together, are its payload (R78). -/
theorem cfg2Frame_eq (c : Station) (p : Params) :
    cfg2Frame c p = frameOf p.sync p.typeCfg2 c.pmuId (cfg2Fields c p).flatten := by
  simp [cfg2Frame, cfg2Fields, Station.nph, Station.nan, phUnit, bytes16, List.flatMap_def, List.flatten_append]

theorem flatMap_length_const {α : Type} (f : α → List Byte) (n : Nat) (h : ∀ a, (f a).length = n) (l : List α) :
    (l.flatMap f).length = n * l.length := by
  induction l with
  | nil => rfl
  | cons a l ih =>
    rw [List.flatMap_cons, List.length_append, ih, h, List.length_cons, Nat.mul_succ]
    omega

theorem cfg2Fields_length (c : Station) (p : Params) :
    (cfg2Fields c p).flatten.length = 32 + 20 * (c.phName.length + c.anName.length) := by
  simp only [cfg2Fields, List.flatten_append, List.length_append, Station.nph, Station.nan, ← List.flatMap_def]
  rw [flatMap_length_const name16 16 name16_length, flatMap_length_const name16 16 name16_length,
    flatMap_length_const _ 4 (fun _ => rfl), flatMap_length_const _ 4 (fun _ => rfl)]
  simp [name16_length]
  omega

/-- The status word and what follows, put together, for a sample that has a value for every channel (R76). -/
theorem dataFrame_eq (s : State) (t : TimeIn) (x : Sample) (ht : s.timeIn = some t) (hx : s.smpIn = some x)
    (hp : x.ph.length = s.cfg.phName.length) (ha : x.an.length = s.cfg.anName.length) :
    dataFrame s.cfg s.par t x = frameOf s.par.sync s.par.typeData s.cfg.pmuId (dataFields s).flatten := by
  have e1 : (List.range s.cfg.nph).map (fun i => bytes32 (s.sample (.mag i)) ++ bytes32 (s.sample (.ang i)))
      = x.ph.map (fun q => bytes32 q.mag ++ bytes32 q.ang) := by
    refine List.ext_getElem (by simp [Station.nph, hp]) fun i h1 h2 => ?_
    have hi : i < x.ph.length := by simpa using h2
    simp [State.sample, hx, Sample.field, hi]
  have e2 : (List.range s.cfg.nan).map (fun j => bytes32 (s.sample (.analog j))) = x.an.map bytes32 := by
    refine List.ext_getElem (by simp [Station.nan, ha]) fun i h1 h2 => ?_
    have hi : i < x.an.length := by simpa using h2
    simp [State.sample, hx, Sample.field, hi]
  have e3 : ((List.range s.cfg.nph).flatMap
      (fun i => [bytes32 (s.sample (.mag i)), bytes32 (s.sample (.ang i))])).flatten
      = x.ph.flatMap (fun q => bytes32 q.mag ++ bytes32 q.ang) := by
    rw [List.flatMap_def (l := x.ph), ← e1]
    generalize List.range s.cfg.nph = l
    induction l with
    | nil => rfl
    | cons a l ih => simp [ih]
  simp only [dataFrame, dataFields, e2, List.flatten_append, e3]
  simp [State.soc, State.usec, ht, State.sample, hx, Sample.field, statWord, bytes16, List.flatMap_def]

theorem dataFields_length (s : State) :
    (dataFields s).flatten.length = 18 + 8 * s.cfg.phName.length + 4 * s.cfg.anName.length := by
  have e3 : ((List.range s.cfg.nph).flatMap
      (fun i => [bytes32 (s.sample (.mag i)), bytes32 (s.sample (.ang i))])).flatten.length = 8 * s.cfg.nph := by
    have (l : List Nat) : (l.flatMap
        (fun i => [bytes32 (s.sample (.mag i)), bytes32 (s.sample (.ang i))])).flatten.length = 8 * l.length := by
      induction l with
      | nil => rfl
      | cons a l ih =>
        rw [List.flatMap_cons, List.flatten_append, List.length_append, ih]
        simp
        omega
    rw [this, List.length_range]
  simp only [dataFields, List.flatten_append, List.length_append, e3, ← List.flatMap_def]
  rw [flatMap_length_const _ 4 (fun _ => rfl)]
  simp [Station.nph, Station.nan]
  omega

/-- What R8 admits, about the lengths of the two frames. -/
theorem Station.admitted_lengths {c : Station} (h : c.admitted = true) :
    40 + 20 * (c.phName.length + c.anName.length) ≤ 65535 ∧ 26 + 8 * c.phName.length + 4 * c.anName.length ≤ 65535
      ∧ 1 ≤ c.dataRate.toNat := by
  simp only [Station.admitted, Station.nph, Station.nan, Bool.and_eq_true] at h
  exact ⟨of_decide_eq_true h.1.1.1.1, of_decide_eq_true h.1.1.1.2, of_decide_eq_true h.1.2⟩

/-- `BUILD_CFG2` leaves the Configuration Frame and its CRC, and nothing else changes (R148). -/
theorem buildCfg2_outIs (s : State) (h : s.cfg.admitted = true) :
    ∃ c m n, buildCfg2 s = .going ((s.setCrc c).setOut m n)
      ∧ c = crc16 ((cfg2Frame s.cfg s.par).take (38 + 20 * (s.cfg.phName.length + s.cfg.anName.length)))
      ∧ (s.setOut m n).OutIs (cfg2Frame s.cfg s.par) := by
  have hl := (Station.admitted_lengths h).1
  have hf := cfg2Fields_length s.cfg s.par
  obtain ⟨c, m, n, h1, h2, h3⟩ := buildFrame_outIs s.par.typeCfg2 (cfg2Fields s.cfg s.par) s (by rw [hf]; omega)
  rw [← cfg2Frame_eq] at h2 h3
  exact ⟨c, m, n, h1, by rw [h2, hf]; congr 2; omega, h3⟩

/-- `BUILD_DATA` leaves a frame of the fields it samples, takes the inputs, and nothing else changes (R154). -/
theorem buildData_outIs (s : State) (h : s.cfg.admitted = true) :
    ∃ c m n, buildData s = .going ((s.takeInputs.setCrc c).setOut m n)
      ∧ c = crc16 ((frameOf s.par.sync s.par.typeData s.cfg.pmuId (dataFields s).flatten).take
          (24 + 8 * s.cfg.phName.length + 4 * s.cfg.anName.length))
      ∧ (s.takeInputs.setOut m n).OutIs (frameOf s.par.sync s.par.typeData s.cfg.pmuId (dataFields s).flatten) := by
  have hl := (Station.admitted_lengths h).2.1
  have hf := dataFields_length s
  obtain ⟨c, m, n, h1, h2, h3⟩ := buildFrame_outIs s.par.typeData (dataFields s) s.takeInputs (by rw [hf]; omega)
  exact ⟨c, m, n, h1, by rw [h2, hf]; congr 2; omega, h3⟩

end Sys2Proof.Machine
end

