-- ==== Sys2Proof/Laws/Input.lean ====
section
/-! SUPPORT. The input buffer as received bytes: loading them, reading a byte, a 16-bit field and a prefix of them. -/
namespace Sys2Proof.Machine

/-- IBUF holds exactly `bs` and ILEN is its length. -/
structure State.InIs (s : State) (bs : List Byte) : Prop where
  ilen  : s.ilen.toNat = bs.length
  holds : s.ibuf.holds bs.length
  bytes : s.ibuf.readBytes 0 bs.length = some bs

/-- A state whose IBUF holds exactly its valid part holds some bytes. -/
theorem State.InIs.of_holds {s : State} (h : s.ibuf.holds s.ilen.toNat) : ∃ bs, s.InIs bs := by
  obtain ⟨xs, hxs⟩ := Memory.readBytes_isSome_of_holds h 0 s.ilen.toNat (by omega)
  have hl := ((Memory.readBytes_eq_some_iff ..).mp hxs).1
  exact ⟨xs, hl.symm, by rw [hl]; exact h, by rw [hl]; exact hxs⟩

/-- What IBUF_LOAD leaves (R57). -/
theorem loadIn_inIs (bs : List Byte) (s : State) (h : bs.length ≤ 65535) : (loadIn bs s).InIs bs := by
  refine ⟨?_, ?_, Memory.readBytes_writeBytes [] 0 bs⟩
  · simp only [loadIn, State.setIn_ilen, BitVec.toNat_ofNat]
    omega
  · have := Memory.holds_writeBytes (m := []) (n := 0) rfl bs (le_refl 0)
    simpa [loadIn] using this

/-- Known bytes, read one by one. -/
theorem State.InIs.read {s : State} {bs : List Byte} (h : s.InIs bs) (a : Nat) : s.ibuf.read a = bs[a]? := by
  by_cases ha : a < bs.length
  · simpa using ((Memory.readBytes_eq_some_iff ..).mp h.bytes).2 a ha
  · rw [List.getElem?_eq_none (by omega)]
    simpa using (Memory.read_isSome_of_holds h.holds a).not.mpr ha

/-- A byte of known bytes. -/
theorem State.InIs.readAt {s : State} {bs : List Byte} (h : s.InIs bs) (a : Nat) (ha : a < bs.length) :
    s.ibuf.read a = some (bs.getD a 0) := by
  rw [h.read, List.getElem?_eq_getElem ha, List.getD_eq_getElem _ _ ha]

/-- A 16-bit field of known bytes (R80). -/
theorem State.InIs.getU16 {s : State} {bs : List Byte} (h : s.InIs bs) (k : Nat) (hk : k + 2 ≤ bs.length) :
    s.ibuf.getU16 k = some (fieldAt bs k) := by
  rw [Memory.getU16, h.readAt k (by omega), h.readAt (k + 1) (by omega), fieldAt]

/-- A prefix of known bytes. -/
theorem State.InIs.readBytes {s : State} {bs : List Byte} (h : s.InIs bs) (n : Nat) (hn : n ≤ bs.length) :
    s.ibuf.readBytes 0 n = some (bs.take n) := by
  refine (Memory.readBytes_eq_some_iff ..).mpr ⟨by simp [hn], fun i hi => ?_⟩
  rw [h.read]
  simp [hi]

/-- A field of received bytes does not depend on what comes after it. -/
theorem fieldAt_append (bs cs : List Byte) (k : Nat) (h : k + 2 ≤ bs.length) : fieldAt (bs ++ cs) k = fieldAt bs k := by
  rw [fieldAt, fieldAt, List.getD_append _ _ _ _ (by omega), List.getD_append _ _ _ _ (by omega)]

end Sys2Proof.Machine
end

