-- ==== Sys2Proof/Laws/Parse.lean ====
section
/-! SUPPORT. A parse of known bytes: it is the table of R182; and the fields of a frame of the common form, read back. -/
namespace Sys2Proof.Machine

/-- Checks 4 and 5 and the result, on known bytes. -/
theorem parseBody_inIs {s : State} {bs : List Byte} (h : s.InIs bs) (n : Nat) (h10 : 10 ≤ n) (hn : n ≤ bs.length) :
    parseBody s n =
      (let c := crc16 (bs.take (n - 2))
       let bad := decide (c ≠ fieldAt bs (n - 2))
       some (if bad = true ∧ s.ctrl.getLsbD 0 = true then ⟨some .crcMismatch, c, s.cmd, true⟩
        else if fieldAt bs 4 ≠ s.cfg.pmuId ∧ fieldAt bs 4 ≠ 0xFFFF then ⟨some .idMismatch, c, s.cmd, bad⟩
        else ⟨none, c, fieldAt bs 6, bad⟩)) := by
  unfold parseBody
  simp only [h.readBytes (n - 2) (by omega), h.getU16 (n - 2) (by omega), h.getU16 4 (by omega), h.getU16 6 (by omega),
    Option.bind_eq_bind, Option.bind_some, ctrlEnforce]
  generalize fieldAt bs 4 = id
  have hb (c d : Half) : (c != d) = decide (c ≠ d) := by by_cases h : c = d <;> simp [h]
  rw [hb]
  generalize hd : decide (crc16 (bs.take (n - 2)) ≠ fieldAt bs (n - 2)) = bad
  cases bad <;> cases s.ctrl.getLsbD 0 <;>
    simp only [Bool.and_true, Bool.and_false, and_true, and_false, if_true, if_false, Bool.false_eq_true]
  all_goals split_ifs <;> rfl

/-- A parse of known bytes never stops, and its result is the one of the table of R182. -/
theorem parse_inIs {s : State} {bs : List Byte} (h : s.InIs bs) :
    parse s = some (parseTable s.par s.cfg.pmuId (s.ctrl.getLsbD 0) s.crc s.cmd bs) := by
  rw [parse, parseTable, h.ilen]
  by_cases h10 : bs.length < 10
  · simp [h10]
  simp only [h10, if_false, h.readAt 0 (by omega), h.readAt 1 (by omega), Option.bind_eq_bind, Option.bind_some,
    h.getU16 2 (by omega)]
  by_cases hh : bs.getD 0 0 ≠ s.par.sync ∨ bs.getD 1 0 ≠ s.par.typeCmd
  · simp only [hh, if_true]
  by_cases hl : (fieldAt bs 2).toNat < 10 ∨ bs.length < (fieldAt bs 2).toNat
  · simp only [hh, if_false, gt_iff_lt]
    rw [if_pos hl, if_pos hl.symm]
  · simp only [hh, if_false, gt_iff_lt]
    rw [if_neg hl, if_neg (fun x => hl x.symm), parseBody_inIs h _ (by omega) (by omega)]

/-! ### The fields of a frame, whatever follows it -/

theorem frameOf_size (sync type : Byte) (id : Half) (payload after : List Byte) :
    fieldAt (frameOf sync type id payload ++ after) 2 = countField (payload.length + 8) := by
  rw [fieldAt_append _ _ _ (by rw [frameOf_length]; omega)]
  generalize hn : countField (payload.length + 8) = n
  simpa [fieldAt, frameOf, bytes16, hn] using be16_bytes16 n

theorem frameOf_id (sync type : Byte) (id : Half) (payload after : List Byte) :
    fieldAt (frameOf sync type id payload ++ after) 4 = id := by
  rw [fieldAt_append _ _ _ (by rw [frameOf_length]; omega)]
  simpa [fieldAt, frameOf, bytes16] using be16_bytes16 id

theorem frameOf_code (sync type : Byte) (id code : Half) (extra after : List Byte) :
    fieldAt (frameOf sync type id (bytes16 code ++ extra) ++ after) 6 = code := by
  rw [fieldAt_append _ _ _ (by rw [frameOf_length]; simp)]
  simpa [fieldAt, frameOf, bytes16] using be16_bytes16 code

/-- The last field of a frame is the CRC of what comes before it (R73). -/
theorem frameOf_crc (sync type : Byte) (id : Half) (payload after : List Byte) :
    fieldAt (frameOf sync type id payload ++ after) (payload.length + 6)
      = crc16 ((frameOf sync type id payload).take (payload.length + 6)) := by
  rw [fieldAt_append _ _ _ (by rw [frameOf_length])]
  have e : frameOf sync type id payload = (frameOf sync type id payload).take (payload.length + 6)
      ++ bytes16 (crc16 ((frameOf sync type id payload).take (payload.length + 6))) := by
    simp only [frameOf]
    rw [List.take_left' (by simp; omega)]
  have hl : ((frameOf sync type id payload).take (payload.length + 6)).length = payload.length + 6 := by
    simp [frameOf_length]
  generalize (frameOf sync type id payload).take (payload.length + 6) = c at *
  rw [fieldAt, e, List.getD_append_right _ _ _ _ (by omega), List.getD_append_right _ _ _ _ (by omega), hl, Nat.sub_self,
    Nat.add_sub_cancel_left]
  exact be16_bytes16 (crc16 c)

/-- The table of R182 on a command frame of this PMU or of the broadcast ID, whatever follows it (R74, R180). -/
theorem parseTable_command (p : Params) (own id code : Half) (enforce : Bool) (crc cmd : Half) (extra after : List Byte)
    (hi : id = own ∨ id = 0xFFFF) (hl : extra.length + 10 ≤ 65535) :
    parseTable p own enforce crc cmd (frameOf p.sync p.typeCmd id (bytes16 code ++ extra) ++ after)
      = ⟨none, crc16 ((frameOf p.sync p.typeCmd id (bytes16 code ++ extra)).take (extra.length + 8)), code, false⟩ := by
  have hp : (bytes16 code ++ extra).length = extra.length + 2 := by simp; omega
  have hL := frameOf_length p.sync p.typeCmd id (bytes16 code ++ extra)
  have h2 := frameOf_size p.sync p.typeCmd id (bytes16 code ++ extra) after
  have h4 := frameOf_id p.sync p.typeCmd id (bytes16 code ++ extra) after
  have h6 := frameOf_code p.sync p.typeCmd id code extra after
  have hc := frameOf_crc p.sync p.typeCmd id (bytes16 code ++ extra) after
  have h0 : (frameOf p.sync p.typeCmd id (bytes16 code ++ extra) ++ after).getD 0 0 = p.sync := by simp [frameOf]
  have h1 : (frameOf p.sync p.typeCmd id (bytes16 code ++ extra) ++ after).getD 1 0 = p.typeCmd := by simp [frameOf]
  have hs : (countField ((bytes16 code ++ extra).length + 8)).toNat = extra.length + 10 := by
    rw [countField, BitVec.toNat_ofNat, hp]
    omega
  rw [hp] at hc hL
  have ht : (frameOf p.sync p.typeCmd id (bytes16 code ++ extra) ++ after).take (extra.length + 8)
      = (frameOf p.sync p.typeCmd id (bytes16 code ++ extra)).take (extra.length + 8) :=
    List.take_append_of_le_length (by omega)
  generalize frameOf p.sync p.typeCmd id (bytes16 code ++ extra) = F at *
  have hc' : fieldAt (F ++ after) (extra.length + 8) = crc16 (F.take (extra.length + 8)) := hc
  simp only [parseTable, h2, hs, h4, h6, h0, h1, hc', show extra.length + 10 - 2 = extra.length + 8 by omega, ht]
  rw [if_neg (by simp; omega), if_neg (by simp), if_neg (by simp; omega), if_neg (by simp), if_neg]
  · simp
  · rcases hi with rfl | rfl <;> simp

end Sys2Proof.Machine
end

