-- ==== Sys2Proof/Laws/PerInstr.lean ====
section
/-! SUPPORT. For every instruction: the word the encoder writes for it lies in its row of spec/opcode_table.json, under the table's
parameters. -/
namespace Sys2Proof.Laws

/-- The bits of a word that the table's masks and matches are about: a request whole, a chunk's opening pair, a command code. -/
def EncodeRow.bits : Encoded → Nat
  | .req w => w.toNat
  | .frame (b0 :: b1 :: _) => b0.toNat * 256 + b1.toNat
  | .frame _ => 0
  | .command code => code.toNat

/-- The row of the table: its mask and its match. -/
def EncodeRow.row : Instr → Nat × Nat
  | .obufClear => (0xF00000000, 0x000000000)
  | .putU16 _ => (0xF00000000, 0x100000000)
  | .putI16 _ => (0xF00000000, 0x200000000)
  | .putU32 _ => (0xF00000000, 0x300000000)
  | .putF32 _ => (0xF00000000, 0x400000000)
  | .putName16 _ => (0xF00000000, 0x500000000)
  | .crcInit => (0xF00000000, 0x600000000)
  | .crcByte _ => (0xF00000000, 0x700000000)
  | .crcObuf => (0xF00000000, 0x800000000)
  | .frameBegin _ => (0xF00000000, 0x900000000)
  | .frameEnd => (0xF00000000, 0xA00000000)
  | .buildCfg2 => (0xF00000000, 0xB00000000)
  | .buildData => (0xF00000000, 0xC00000000)
  | .parseCmd => (0xF00000000, 0xD00000000)
  | .getU16 _ => (0xF00000000, 0xE00000000)
  | .putU8 _ => (0xF00000000, 0xF00000000)
  | .frameCmd _ => (0xFFFF, 0xAA41)
  | .frameData _ => (0xFFFF, 0xAA01)
  | .frameCfg2 _ => (0xFFFF, 0xAA31)
  | .cmdDisable => (0xFFFF, 0x0001)
  | .cmdEnable => (0xFFFF, 0x0002)
  | .cmdSendHdr => (0xFFFF, 0x0003)
  | .cmdSendCfg1 => (0xFFFF, 0x0004)
  | .cmdSendCfg2 => (0xFFFF, 0x0005)
  | .cmdOther _ => (0x0000, 0x0000)

/-- The encoding of an instruction lies in its row. -/
def EncodeRow.Statement (i : Instr) : Prop :=
  EncodeRow.bits (encode Params.default i) &&& (EncodeRow.row i).1 = (EncodeRow.row i).2

/-- The mask of the request rows keeps the select and drops the immediate. -/
theorem EncodeRow.mask_request (op : BitVec 4) (imm : Word) :
    (mkRequest op imm).toNat &&& 0xF00000000 = op.toNat * 0x100000000 := by
  have hm : ∀ i < 36, (0xF00000000 : Request).getLsbD i = decide (32 ≤ i) := by decide
  have h : mkRequest op imm &&& 0xF00000000 = mkRequest op 0 := by
    refine BitVec.eq_of_getLsbD_eq fun i hi => ?_
    rw [BitVec.getLsbD_and, hm i hi, mkRequest, mkRequest, BitVec.getLsbD_append, BitVec.getLsbD_append]
    by_cases h : i < 32
    · simp [h, show ¬ 32 ≤ i by omega]
    · simp [h, show 32 ≤ i by omega]
  have h' := congrArg BitVec.toNat h
  rw [BitVec.toNat_and] at h'
  refine h'.trans ?_
  rw [mkRequest, BitVec.toNat_append, show BitVec.toNat (0 : Word) = 0 from rfl, Nat.or_zero, Nat.shiftLeft_eq]

theorem EncodeRow.obufClear : EncodeRow.Statement .obufClear :=
  EncodeRow.mask_request _ _

theorem EncodeRow.putU16 (v : Half) : EncodeRow.Statement (.putU16 v) :=
  EncodeRow.mask_request _ _

theorem EncodeRow.putI16 (v : Half) : EncodeRow.Statement (.putI16 v) :=
  EncodeRow.mask_request _ _

theorem EncodeRow.putU32 (v : Word) : EncodeRow.Statement (.putU32 v) :=
  EncodeRow.mask_request _ _

theorem EncodeRow.putF32 (w : Word) : EncodeRow.Statement (.putF32 w) :=
  EncodeRow.mask_request _ _

theorem EncodeRow.putName16 (k : Half) : EncodeRow.Statement (.putName16 k) :=
  EncodeRow.mask_request _ _

theorem EncodeRow.crcInit : EncodeRow.Statement .crcInit :=
  EncodeRow.mask_request _ _

theorem EncodeRow.crcByte (b : Byte) : EncodeRow.Statement (.crcByte b) :=
  EncodeRow.mask_request _ _

theorem EncodeRow.crcObuf : EncodeRow.Statement .crcObuf :=
  EncodeRow.mask_request _ _

theorem EncodeRow.frameBegin (t : Byte) : EncodeRow.Statement (.frameBegin t) :=
  EncodeRow.mask_request _ _

theorem EncodeRow.frameEnd : EncodeRow.Statement .frameEnd :=
  EncodeRow.mask_request _ _

theorem EncodeRow.buildCfg2 : EncodeRow.Statement .buildCfg2 :=
  EncodeRow.mask_request _ _

theorem EncodeRow.buildData : EncodeRow.Statement .buildData :=
  EncodeRow.mask_request _ _

theorem EncodeRow.parseCmd : EncodeRow.Statement .parseCmd :=
  EncodeRow.mask_request _ _

theorem EncodeRow.getU16 (k : Half) : EncodeRow.Statement (.getU16 k) :=
  EncodeRow.mask_request _ _

theorem EncodeRow.putU8 (b : Byte) : EncodeRow.Statement (.putU8 b) :=
  EncodeRow.mask_request _ _

theorem EncodeRow.frameCmd (body : List Byte) : EncodeRow.Statement (.frameCmd body) := by
  show ((0xAA : Byte).toNat * 256 + (0x41 : Byte).toNat) &&& 0xFFFF = 0xAA41
  decide

theorem EncodeRow.frameData (body : List Byte) : EncodeRow.Statement (.frameData body) := by
  show ((0xAA : Byte).toNat * 256 + (0x01 : Byte).toNat) &&& 0xFFFF = 0xAA01
  decide

theorem EncodeRow.frameCfg2 (body : List Byte) : EncodeRow.Statement (.frameCfg2 body) := by
  show ((0xAA : Byte).toNat * 256 + (0x31 : Byte).toNat) &&& 0xFFFF = 0xAA31
  decide

theorem EncodeRow.cmdDisable : EncodeRow.Statement .cmdDisable :=
  rfl

theorem EncodeRow.cmdEnable : EncodeRow.Statement .cmdEnable :=
  rfl

theorem EncodeRow.cmdSendHdr : EncodeRow.Statement .cmdSendHdr :=
  rfl

theorem EncodeRow.cmdSendCfg1 : EncodeRow.Statement .cmdSendCfg1 :=
  rfl

theorem EncodeRow.cmdSendCfg2 : EncodeRow.Statement .cmdSendCfg2 :=
  rfl

theorem EncodeRow.cmdOther (code : Half) : EncodeRow.Statement (.cmdOther code) :=
  Nat.and_zero _

end Sys2Proof.Laws
end

