-- ==== Sys2Proof/Laws/Session.lean ====
section
/-! SUPPORT. What the host's shared operations can do: sending what a builder has built, acting on a class, receiving a chunk; and
the step, inverted. -/
namespace Sys2Proof.Machine

/-- `BUILD_CFG2` outside the fault state with an admitted configuration, as one outcome. -/
theorem execBuildCfg2_ready {s : State} (hf : s.fault = 0) (hc : s.cfg.admitted = true) :
    ∃ c m n, execBuildCfg2 s = .next (((s.setCrc c).setOut m n).setOutcome (some .done))
      ∧ (s.setOut m n).OutIs (cfg2Frame s.cfg s.par) := by
  obtain ⟨c, m, n, h, -, o⟩ := buildCfg2_outIs s hc
  exact ⟨c, m, n, by rw [execBuildCfg2, operation_ready hf, h, finish], o⟩

/-- `BUILD_DATA` outside the fault state with an admitted configuration, as one outcome. -/
theorem execBuildData_ready {s : State} (hf : s.fault = 0) (hc : s.cfg.admitted = true) :
    ∃ c m n, execBuildData s = .next (((s.takeInputs.setCrc c).setOut m n).setOutcome (some .done))
      ∧ (s.takeInputs.setOut m n).OutIs (frameOf s.par.sync s.par.typeData s.cfg.pmuId (dataFields s).flatten) := by
  obtain ⟨c, m, n, h, -, o⟩ := buildData_outIs s hc
  exact ⟨c, m, n, by rw [execBuildData, operation_ready hf, h, finish], o⟩

/-- A built frame is sent, and the session streams from now (R194, R202). -/
theorem sendThenStream_sends {s : State} {f : List Byte} (hd : s.outcome = some .done) (hb : s.obufBytes = some f) :
    sendThenStream (.next s) = .next (((s.setHostBytes f).addWire f).setSession (some (.streaming s.now))) := by
  simp only [sendThenStream, hd, if_true, transmit, hb]
  rfl

/-- Everything sending can do when it answers a next state: nothing, or one frame, which is what OBUF holds. -/
theorem sendThenStream_next {o : Host.Outcome State Fault Refusal} {t : State} (h : sendThenStream o = .next t) :
    ∃ u, o = .next u ∧ ((u.outcome ≠ some .done ∧ t = u)
      ∨ (u.outcome = some .done ∧ ∃ f, u.obufBytes = some f
        ∧ t = ((u.setHostBytes f).addWire f).setSession (some (.streaming u.now)))) := by
  cases o with
  | fault | refused => cases h
  | next u =>
    refine ⟨u, rfl, ?_⟩
    by_cases hd : u.outcome = some .done
    · cases hb : u.obufBytes with
      | none =>
        simp only [sendThenStream, hd, if_true, transmit, hb] at h
        cases h
      | some f =>
        rw [sendThenStream_sends hd hb] at h
        cases h
        exact .inr ⟨hd, f, rfl, rfl⟩
    · simp only [sendThenStream, hd, if_false] at h
      cases h
      exact .inl ⟨hd, rfl⟩

/-- Everything acting on a class can do (R194). -/
theorem applyClass_cases (k : CmdClass) (s : State) :
    (s.session = none ∧ applyClass k s = .next s)
      ∨ (s.session ≠ none ∧ k = .disable ∧ applyClass k s = .next (s.setSession (some .idle)))
      ∨ (s.session ≠ none ∧ k = .enable ∧ applyClass k s = .next (s.setSession (some (.streaming s.now))))
      ∨ (s.session ≠ none ∧ k = .sendCfg ∧ applyClass k s = sendThenStream (execBuildCfg2 s)) := by
  cases h : s.session with
  | none => simp [applyClass, h]
  | some x => cases k <;> simp [applyClass, h]

/-- A configuration is sent on an open session (R194, R195). -/
theorem applyClass_sendCfg {s : State} (hs : s.session ≠ none) (hf : s.fault = 0) (hc : s.cfg.admitted = true) :
    ∃ c m n, applyClass .sendCfg s =
      .next ((((((s.setCrc c).setOut m n).setOutcome (some .done)).setHostBytes (cfg2Frame s.cfg s.par)).addWire
        (cfg2Frame s.cfg s.par)).setSession (some (.streaming s.now)))
      ∧ (s.setOut m n).OutIs (cfg2Frame s.cfg s.par) := by
  obtain ⟨c, m, n, h, o⟩ := execBuildCfg2_ready hf hc
  obtain ⟨e, -⟩ | ⟨-, e, -⟩ | ⟨-, e, -⟩ | ⟨-, -, e⟩ := applyClass_cases .sendCfg s
  · exact absurd e hs
  · cases e
  · cases e
  · have ob : (((s.setCrc c).setOut m n).setOutcome (some .done)).obufBytes = some (cfg2Frame s.cfg s.par) := o.obufBytes
    exact ⟨c, m, n, by rw [e, h, sendThenStream_sends rfl ob]; rfl, o⟩

@[simp] theorem recordParse_cmd (r : Parsed) (s : State) : (recordParse r s).cmd = r.cmd := rfl
@[simp] theorem recordParse_crc (r : Parsed) (s : State) : (recordParse r s).crc = r.crc := rfl
@[simp] theorem recordParse_status (r : Parsed) (s : State) : (recordParse r s).status = parseStatus r.res r.bad := rfl
@[simp] theorem recordParse_outcome (r : Parsed) (s : State) : (recordParse r s).outcome = some (parseOutcome r.res) := rfl

/-- Everything PARSE_CMD can do when it answers a next state (R172, R222). -/
theorem execParseCmd_next {s t : State} (h : execParseCmd s = .next t) :
    (s.fault ≠ 0 ∧ t = s.setOutcome (some .refused)) ∨ (s.fault = 0 ∧ ∃ r, parse s = some r ∧ t = recordParse r s) := by
  by_cases hf : s.fault = 0
  · rw [execParseCmd, if_neg (by simpa using hf)] at h
    cases hp : parse s with
    | none => rw [hp] at h; cases h
    | some r => rw [hp] at h; cases h; exact .inr ⟨hf, r, rfl, rfl⟩
  · rw [execParseCmd, if_pos hf] at h
    cases h
    exact .inl ⟨hf, rfl⟩

/-- A received chunk is loaded, parsed by the table of R182, and reacted to (R205 (a)). -/
theorem receiveChunk_ready {bs : List Byte} {s : State} (h : bs.length ≤ 65535) (hf : s.fault = 0) :
    receiveChunk bs s =
      react (recordParse (parseTable s.par s.cfg.pmuId (s.ctrl.getLsbD 0) s.crc s.cmd bs) (loadIn bs s)) := by
  rw [receiveChunk, if_neg (by simp only [ibufCap]; omega), execParseCmd, parse_inIs (loadIn_inIs bs s h),
    if_neg (by simpa [loadIn] using hf)]
  rfl

/-- In the fault state a received chunk is loaded and refused (R222, log 23). -/
theorem receiveChunk_refused {bs : List Byte} {s : State} (h : bs.length ≤ 65535) (hf : s.fault ≠ 0) :
    receiveChunk bs s = .next ((loadIn bs s).setOutcome (some .refused)) := by
  rw [receiveChunk, if_neg (by simp only [ibufCap]; omega), execParseCmd, if_pos (by simpa [loadIn] using hf)]
  rfl

/-- Whatever a chunk opens with, it takes the one path of R205 (a) (R81). -/
theorem runReceive_eq (bs : List Byte) (s : State) : runReceive bs s = receiveChunk bs s := by
  match bs with
  | [] => rfl
  | [_] => rfl
  | b0 :: b1 :: body =>
    simp only [runReceive, decodeFrame]
    split_ifs with h1 h2 h3 h4 h5
    · rfl
    · rfl
    · rw [not_not] at h2
      subst h2 h3
      rfl
    · rw [not_not] at h2
      subst h2 h4
      rfl
    · rw [not_not] at h2
      subst h2 h5
      rfl
    · rfl

/-- A step with a move to come makes it. -/
theorem step_cons {s : State} {m : HostMove} {rest : List HostMove} (h : s.pending = m :: rest) :
    step s = runMove m (s.setPending rest) := by
  rw [step, fetchAndRun, h]

end Sys2Proof.Machine
end

