-- ==== Sys2Proof/Tests/Slice0.lean ====
section
/-! SUPPORT. Tests from the spec's own vectors (95_test_vectors.md; each names its vector), the ill-formed terms, the words of the
encodings, and a witness for every statement that has hypotheses. -/
namespace Sys2Proof.Tests
open Sys2Proof Sys2Proof.Machine

/-- The arbitrary unit words of the vectors (R7). -/
def testPar : Params := { Params.default with phunitV := 0x00000001, phunitI := 0x01000001, anunit := 0x00000001 }

/-- cfgB of 95_test_vectors.md. -/
def cfgB : Station where
  pmuId      := 1
  stn        := [0x53, 0x54, 0x41, 0x54, 0x49, 0x4F, 0x4E, 0x5F, 0x41, 0x5F, 0x4C, 0x4F, 0x4E, 0x47, 0x5F, 0x4E, 0x41, 0x4D, 0x45,
    0x5F, 0x58]
  timeBase   := 1000000
  fnom       := 0
  dataRate   := 50
  phName     := [[0x56, 0x41], [0x49, 0x41], [0x49, 0x42]]
  anName     := [[0x41, 0x4E, 0x31], [0x41, 0x4E, 0x32], [0x41, 0x4E, 0x33], [0x41, 0x4E, 0x34]]
  fmtNumeric := .float
  fmtPhasor  := .polar

/-- cfgC of 95_test_vectors.md. -/
def cfgC : Station :=
  { Config.station with pmuId := 0xFFFE, stn := [], timeBase := 0, fnom := 1, dataRate := 32767, phName := [], anName := [] }

/-- The reset state with cfgA and the vectors' parameters. -/
def rst : State := State.resetWith Config.station testPar

/-- A clock of one tick a millisecond, exact intervals. -/
def hostRst (c : Station) : State := { State.resetWith c testPar with intervalDiv := .exact, ticksPerMs := 1 }

/-- With these bytes in OBUF. -/
def withOut (bs : List Byte) (s : State) : State := s.setOut (Memory.writeBytes [] 0 bs) (BitVec.ofNat 16 bs.length)

/-- What OBUF_READ gives after an outcome. -/
def outOf : Host.Outcome State Fault Refusal → Option (List Byte)
  | .next t => t.obufBytes
  | _ => none

/-- A field after an outcome. -/
def get {α : Type} (f : State → α) : Host.Outcome State Fault Refusal → Option α
  | .next t => some (f t)
  | _ => none

/-- The enable command frame of V40. -/
def v40 : List Byte := [0xAA, 0x41, 0x00, 0x0A, 0x00, 0x01, 0x00, 0x02, 0x12, 0xFA]

/-- PARSE_CMD's STATUS, CMD, CRC on received bytes. -/
def parsed (bs : List Byte) (s : State) : Option (Half × Half × Half) :=
  get (fun t => (t.status, t.cmd, t.crc)) (exec .parseCmd (loadIn bs s))

/-! ### Ill-formed terms -/

theorem test_overlong_frame_ill_formed (body : List Byte) (h : body.length = 65534) :
    Instr.wellFormed testPar (.frameCmd body) = false := by
  simp [Instr.wellFormed, bodyFits, h, ibufCap]

theorem test_known_code_ill_formed_as_other : Instr.wellFormed testPar (.cmdOther 0x0003) = false := by decide

/-! ### Words of the encodings -/

theorem test_decode_obufClear : decodeRequest 0x0FFFFFFFF = .obufClear := by decide
theorem test_decode_putU16 : decodeRequest 0x112345678 = .putU16 0x5678 := by decide
theorem test_decode_putI16 : decodeRequest 0x20000FFFE = .putI16 0xFFFE := by decide
theorem test_decode_putU32 : decodeRequest 0x3000F4240 = .putU32 1000000 := by decide
theorem test_decode_putF32 : decodeRequest 0x47FC00001 = .putF32 0x7FC00001 := by decide
theorem test_decode_putName16 : decodeRequest 0x500000008 = .putName16 8 := by decide
theorem test_decode_crcInit : decodeRequest 0x600000000 = .crcInit := by decide
theorem test_decode_crcByte : decodeRequest 0x7ABCDEF01 = .crcByte 0x01 := by decide
theorem test_decode_crcObuf : decodeRequest 0x800000000 = .crcObuf := by decide
theorem test_decode_frameBegin : decodeRequest 0x900000041 = .frameBegin 0x41 := by decide
theorem test_decode_frameEnd : decodeRequest 0xA00000000 = .frameEnd := by decide
theorem test_decode_buildCfg2 : decodeRequest 0xB00000000 = .buildCfg2 := by decide
theorem test_decode_buildData : decodeRequest 0xC00000000 = .buildData := by decide
theorem test_decode_parseCmd : decodeRequest 0xD00000000 = .parseCmd := by decide
theorem test_decode_getU16 : decodeRequest 0xE00000009 = .getU16 9 := by decide
theorem test_decode_putU8 : decodeRequest 0xF000000AA = .putU8 0xAA := by decide
theorem test_decode_frameCmd : decodeFrame testPar [0xAA, 0x41, 0x00] = .ok (.frameCmd [0x00]) := by rfl
theorem test_decode_frameData : decodeFrame testPar [0xAA, 0x01, 0x00] = .ok (.frameData [0x00]) := by rfl
theorem test_decode_frameCfg2 : decodeFrame testPar [0xAA, 0x31, 0x00] = .ok (.frameCfg2 [0x00]) := by rfl
theorem test_decode_no_kind : decodeFrame testPar [0xAA, 0x42, 0x00] = .error .noFrameKind := by rfl
theorem test_decode_wrong_sync : decodeFrame testPar [0xAB, 0x41, 0x00] = .error .noFrameKind := by rfl
theorem test_decode_one_byte : decodeFrame testPar [0xAA] = .error .noOpeningPair := by rfl
theorem test_decode_cmdDisable : decodeCommand testPar 0x0001 = .cmdDisable := by decide
theorem test_decode_cmdEnable : decodeCommand testPar 0x0002 = .cmdEnable := by decide
theorem test_decode_cmdSendHdr : decodeCommand testPar 0x0003 = .cmdSendHdr := by decide
theorem test_decode_cmdSendCfg1 : decodeCommand testPar 0x0004 = .cmdSendCfg1 := by decide
theorem test_decode_cmdSendCfg2 : decodeCommand testPar 0x0005 = .cmdSendCfg2 := by decide
theorem test_decode_cmdOther : decodeCommand testPar 0x0006 = .cmdOther 0x0006 := by decide

theorem test_table_word_request : decodeTableWord 40 0x100000000 = some (.putU16 0) := by decide
theorem test_table_word_frame : decodeTableWord 16 0xAA01 = some (.frameData zeroBody) := by decide
theorem test_table_word_command : decodeTableWord 16 0x0005 = some .cmdSendCfg2 := by decide
theorem test_table_word_other : decodeTableWord 16 0x0000 = some (.cmdOther 0) := by decide

/-! ### CRC Engine (V1 to V21) -/

/-- V10. -/
theorem test_crc_123456789 : crc16 [0x31, 0x32, 0x33, 0x34, 0x35, 0x36, 0x37, 0x38, 0x39] = 0x29B1 := by decide +kernel

/-- V4, with the trace of R121. -/
theorem test_crc_steps : (List.range 9).map (fun n => crcBits n 0xFEFF)
    = [0xFEFF, 0xEDDF, 0xCB9F, 0x871F, 0x1E1F, 0x3C3E, 0x787C, 0xF0F8, 0xF1D1] := by decide

/-- V15. -/
theorem test_crc_byte : get State.crc (exec (.crcByte 0x56) (rst.setCrc 0x1234)) = some 0x3C40 := by decide

/-- V17. -/
theorem test_crc_init : get State.crc (exec .crcInit (rst.setCrc 0x29B1)) = some 0xFFFF := by decide

/-- V20. -/
theorem test_crc_obuf : get State.crc (exec .crcObuf (withOut (v40.take 8) (rst.setCrc 0))) = some 0x12FA := by decide +kernel

/-- V21. -/
theorem test_crc_obuf_empty : get State.crc (exec .crcObuf (rst.setCrc 0x1234)) = some 0xFFFF := by decide

/-! ### Byte Codec (V22 to V29) -/

/-- V22c. -/
theorem test_put_u16 : outOf (exec (.putU16 0x5678) rst) = some [0x56, 0x78] := by decide
/-- V22d. -/
theorem test_put_i16 : outOf (exec (.putI16 0xFFFE) rst) = some [0xFF, 0xFE] := by decide
/-- V22g. -/
theorem test_put_u32 : outOf (exec (.putU32 1000000) rst) = some [0x00, 0x0F, 0x42, 0x40] := by decide
/-- V22k. -/
theorem test_put_f32 : outOf (exec (.putF32 0x7FC00001) rst) = some [0x7F, 0xC0, 0x00, 0x01] := by decide
/-- V22n: a 4-byte append at an odd offset. -/
theorem test_put_odd : outOf (execFrom [.putU8 0x01, .putU32 0x11223344] (.next rst)) = some [0x01, 0x11, 0x22, 0x33, 0x44] := by decide
/-- V22o. -/
theorem test_obuf_clear : outOf (exec .obufClear (withOut v40 rst)) = some [] := by decide
/-- Capacity corners: OLEN = 65534. -/
theorem test_put_u16_overflow :
    get (fun t => (t.fault, t.olen)) (exec (.putU16 1) { rst with olen := 65534 }) = some (0x0002, 65534) := by decide
/-- Capacity corners: OLEN = 65534. -/
theorem test_put_u8_last : get (fun t => (t.fault, t.olen)) (exec (.putU8 1) { rst with olen := 65534 }) = some (0x0000, 65535) := by decide
/-- V23c. -/
theorem test_get_u16_odd : get State.rdata (exec (.getU16 1) (loadIn v40 rst)) = some 0x4100 := by decide
/-- V23d. -/
theorem test_get_u16_range :
    get (fun t => (t.fault, t.rdata)) (exec (.getU16 9) (loadIn v40 rst)) = some (0x0004, 0x0000) := by decide
/-- V28: the Q is cut. -/
theorem test_name16_cut :
    name16 [0x41, 0x42, 0x43, 0x44, 0x45, 0x46, 0x47, 0x48, 0x49, 0x4A, 0x4B, 0x4C, 0x4D, 0x4E, 0x4F, 0x50, 0x51]
      = [0x41, 0x42, 0x43, 0x44, 0x45, 0x46, 0x47, 0x48, 0x49, 0x4A, 0x4B, 0x4C, 0x4D, 0x4E, 0x4F, 0x50] := by decide
/-- With cfgB, index 4 is the first analog name. -/
theorem test_put_name_analog : outOf (exec (.putName16 4) (State.resetWith cfgB testPar))
    = some [0x41, 0x4E, 0x31, 0x20, 0x20, 0x20, 0x20, 0x20, 0x20, 0x20, 0x20, 0x20, 0x20, 0x20, 0x20, 0x20] := by decide
/-- With cfgB, index 8 does not exist. -/
theorem test_put_name_range :
    get (fun t => (t.fault, t.olen)) (exec (.putName16 8) (State.resetWith cfgB testPar)) = some (0x0004, 0) := by decide

/-! ### Frame Builders (V24 to V38) -/

/-- V38. -/
theorem test_frame_begin : outOf (exec (.frameBegin 0x01) rst) = some [0xAA, 0x01, 0x00, 0x00, 0x00, 0x01] := by decide +kernel
/-- V37: the smallest OLEN that FRAME_END accepts. -/
theorem test_frame_end_smallest :
    outOf (exec .frameEnd (withOut [0xAA, 0x41, 0x00, 0x00] rst)) = some [0xAA, 0x41, 0x00, 0x06, 0x4C, 0x46] := by decide +kernel
/-- V24: a second FRAME_END. -/
theorem test_frame_end_twice : outOf (exec .frameEnd (withOut v40 rst))
    = some [0xAA, 0x41, 0x00, 0x0C, 0x00, 0x01, 0x00, 0x02, 0x12, 0xFA, 0xA1, 0x25] := by decide +kernel
/-- V34. -/
theorem test_build_cfg2_cfgC : outOf (exec .buildCfg2 (State.resetWith cfgC testPar))
    = some [0xAA, 0x31, 0x00, 0x28, 0xFF, 0xFE, 0x00, 0x00, 0x00, 0x00, 0x20, 0x20, 0x20, 0x20, 0x20, 0x20, 0x20, 0x20, 0x20, 0x20,
      0x20, 0x20, 0x20, 0x20, 0x20, 0x20, 0x00, 0x0F, 0x00, 0x00, 0x00, 0x00, 0x00, 0x00, 0x00, 0x01, 0x7F, 0xFF, 0x2F, 0xE3] := by
  decide +kernel
/-- V32: the CRC and the length. -/
theorem test_build_cfg2_cfgB :
    get (fun t => (t.crc, t.olen)) (exec .buildCfg2 (State.resetWith cfgB testPar)) = some (0x082E, 180) := by
  decide +kernel
/-- V31. -/
theorem test_build_data_cfgA :
    outOf (exec .buildData (rst.setInputs (some ⟨0x6553F100, 0x0007A120⟩) (some ⟨[⟨0x43660000, 0⟩], 0, 0, [0x3FC00000]⟩)))
    = some [0xAA, 0x01, 0x00, 0x26, 0x00, 0x01, 0x65, 0x53, 0xF1, 0x00, 0x00, 0x07, 0xA1, 0x20, 0xC0, 0x00, 0x43, 0x66, 0x00, 0x00,
      0x00, 0x00, 0x00, 0x00, 0x00, 0x00, 0x00, 0x00, 0x00, 0x00, 0x00, 0x00, 0x3F, 0xC0, 0x00, 0x00, 0x7F, 0xCD] := by
  decide +kernel
/-- V33: the CRC. -/
theorem test_build_data_cfgB :
    get (fun t => (t.crc, t.olen)) (exec .buildData ((State.resetWith cfgB testPar).setInputs (some ⟨0x6553F100, 0x00004E20⟩)
      (some ⟨[⟨0x47780C00, 0⟩, ⟨0x42C80000, 0xC0060A92⟩, ⟨0x42C80000, 0x40060A92⟩], 0x3E800000, 0xBF000000,
        [0x3F800000, 0x40000000, 0x40400000, 0x40800000]⟩))) = some (0x54E0, 66) := by
  decide +kernel

/-! ### Command Frame Parser (V40 to V59) -/

/-- V40. -/
theorem test_parse_ok : parsed v40 rst = some (0x0008, 0x0002, 0x12FA) := by decide +kernel
/-- V42. -/
theorem test_parse_short : parsed (v40.take 9) rst = some (0x0009, 0x0000, 0xFFFF) := by decide +kernel
/-- V44. -/
theorem test_parse_header :
    parsed [0xAA, 0x01, 0x00, 0x0A, 0x00, 0x01, 0x00, 0x02, 0x12, 0xFA] rst = some (0x000A, 0x0000, 0xFFFF) := by decide +kernel
/-- V46b. -/
theorem test_parse_length :
    parsed [0xAA, 0x41, 0x00, 0x09, 0x00, 0x01, 0x00, 0x02, 0x12, 0xFA] rst = some (0x000B, 0x0000, 0xFFFF) := by decide +kernel
/-- V50 and V51. -/
theorem test_parse_crc :
    parsed [0xAA, 0x41, 0x00, 0x0A, 0x00, 0x01, 0x00, 0x02, 0x12, 0xFB] rst = some (0x001C, 0x0000, 0x12FA)
    ∧ parsed [0xAA, 0x41, 0x00, 0x0A, 0x00, 0x01, 0x00, 0x02, 0x12, 0xFB] (rst.setCtrl 0) = some (0x0018, 0x0002, 0x12FA) := by
  decide +kernel
/-- V47 and V52. -/
theorem test_parse_id :
    parsed [0xAA, 0x41, 0x00, 0x0A, 0x00, 0x02, 0x00, 0x02, 0x4B, 0xAA] rst = some (0x000D, 0x0000, 0x4BAA)
    ∧ parsed [0xAA, 0x41, 0x00, 0x0A, 0x00, 0x02, 0x00, 0x02, 0x4B, 0xAB] (rst.setCtrl 0) = some (0x001D, 0x0000, 0x4BAA) := by
  decide +kernel
/-- V55: extra bytes are CRC input only. -/
theorem test_parse_extra :
    parsed [0xAA, 0x41, 0x00, 0x0E, 0x00, 0x01, 0x00, 0x02, 0xDE, 0xAD, 0xBE, 0xEF, 0x8A, 0xE4] rst
      = some (0x0008, 0x0002, 0x8AE4) := by decide +kernel
/-- V53: the broadcast ID. -/
theorem test_parse_broadcast :
    parsed [0xAA, 0x41, 0x00, 0x0A, 0xFF, 0xFF, 0x00, 0x02, 0xA1, 0x0A] rst = some (0x0008, 0x0002, 0xA10A) := by decide +kernel

/-! ### Faults, reset and the host (V60 to V85) -/

/-- V81. -/
theorem test_reset_fixed_format : (State.resetWith { Config.station with fmtNumeric := .fixed } testPar).fault = 0x0001 := by decide
/-- V82. -/
theorem test_refused_in_fault_state :
    get (fun t => (t.crc, t.outcome)) (exec .crcInit ((rst.setFault 0x0004).setCrc 0x1234)) = some (0x1234, some .refused) := by decide
/-- V84. -/
theorem test_ctrl_write : get State.ctrl (runMove (.regWrite 0 0xFFFF) rst) = some 0x0001 := by decide
/-- R35: index 9 reads 0. -/
theorem test_reserved_index : get State.hostWord (runMove (.regRead 9) { rst with hostWord := 7 }) = some 0 := by decide
/-- V60: the enable command frame received. -/
theorem test_receive_enable :
    get (fun t => (t.session, t.wire)) (exec (.frameCmd (v40.drop 2)) { hostRst cfgB with session := some .idle, now := 1000 })
      = some (some (.streaming 1000), []) := by decide +kernel
/-- V61. -/
theorem test_cmd_disable : get State.session (exec .cmdDisable { rst with session := some (.streaming 1000) }) = some (some .idle) := by
  decide
/-- V62 and V64: one configuration frame, then streaming; its length with cfgC. -/
theorem test_cmd_other :
    get (fun t => (t.session, t.wire.map List.length)) (exec (.cmdOther 6) { hostRst cfgC with session := some .idle, now := 2000 })
      = some (some (.streaming 2000), [40]) := by decide +kernel
/-- V64. -/
theorem test_cmd_send_hdr :
    get (fun t => (t.session, t.wire.map List.length)) (exec .cmdSendHdr { hostRst cfgC with session := some .idle, now := 3000 })
      = some (some (.streaming 3000), [40]) := by decide +kernel
/-- V66 and V67: at 20 ms one data frame, at 19 ms none. -/
theorem test_schedule_due :
    get (fun t => (t.session, t.wire.map List.length)) (runMove (.tick 1020 []) { hostRst cfgB with session := some (.streaming 1000) })
      = some (some (.streaming 1020), [66])
    ∧ get (fun t => (t.session, t.wire)) (runMove (.tick 1019 []) { hostRst cfgB with session := some (.streaming 1000) })
      = some (some (.streaming 1000), []) := by decide +kernel
/-- V70: DATA_RATE = 60, the two readings of the interval. -/
theorem test_interval_rounding : emissionDue .floor 1 60 0 16 = true ∧ emissionDue .exact 1 60 0 16 = false := by decide
/-- V69: only the configuration frame goes out. -/
theorem test_config_first :
    get (fun t => (t.session, t.wire.map List.length))
      (runMove (.tick 1030 [0xAA, 0x41, 0x00, 0x0A, 0x00, 0x01, 0x00, 0x05, 0x62, 0x1D])
        { hostRst cfgB with session := some (.streaming 1000) }) = some (some (.streaming 1030), [180]) := by decide +kernel
/-- A request word placed by withFetchWord is the one the next step runs. -/
theorem test_fetch_word : get State.olen (step (State.reset.withFetchWord 40 0x100000000)) = some 2 := by decide
/-- A command code placed by withFetchWord is the one the next step runs. -/
theorem test_fetch_command : get State.session (step (State.reset.withFetchWord 16 0x0002)) = some (some (.streaming 0)) := by decide

/-! ### Witnesses: for every statement with hypotheses, states and operands that meet them, at the edges of its clauses -/

/-- A state of cfgA with a session, OBUF and IBUF filled. -/
def busy : State := loadIn v40 (withOut v40 { hostRst Config.station with session := some .idle, now := 7 })

/-- cfgC, streaming since 0, an input presented, at time `n`. -/
def flowing : State :=
  { hostRst cfgC with session := some (.streaming 0), timeIn := some ⟨1, 2⟩, smpIn := some ⟨[], 3, 4, []⟩ }

theorem withOut_holds (n : Nat) (h : n ≤ 65535) : (withOut (List.replicate n 0) rst).buffersHold := by
  refine ⟨?_, rfl⟩
  have := Memory.holds_writeBytes (m := []) (n := 0) rfl (List.replicate n 0) (le_refl 0)
  simpa [withOut, h, Nat.mod_eq_of_lt (by omega : n < 65536)] using this

theorem test_witness_StepRunsDecodedInstruction :
    (∃ w rest, (rst.setPending [.request 0x100000000]).pending = HostMove.request w :: rest)
    ∧ (∃ bs rest i, (rst.setPending [.receive [0xAA, 0x01]]).pending = HostMove.receive bs :: rest ∧ decodeFrame rst.par bs = .ok i)
    ∧ (∃ rest, (rst.setPending [.act]).pending = HostMove.act :: rest) ∧ rst.pending = [] :=
  ⟨⟨_, _, rfl⟩, ⟨_, _, .frameData [], rfl, rfl⟩, ⟨_, rfl⟩, rfl⟩

theorem test_witness_DecodeOfEncodeIsIdentity :
    Params.default.admitted = true ∧ Instr.wellFormed Params.default (.putU32 0xFFFFFFFF) = true
    ∧ Instr.wellFormed Params.default (.frameCmd (List.replicate 65533 0)) = true
    ∧ Instr.wellFormed Params.default (.cmdOther 0x0006) = true ∧ Instr.wellFormed Params.default .cmdSendCfg2 = true :=
  ⟨by decide, by decide, by rw [Instr.wellFormed, bodyFits, List.length_replicate]; decide, by decide, by decide⟩

theorem test_witness_DecodedInstructionsReadBack :
    decode testPar (.req 0x0FFFFFFFF) = .ok .obufClear ∧ decode testPar (.frame [0xAA, 0x31]) = .ok (.frameCfg2 [])
    ∧ decode testPar (.command 0xFFFF) = .ok (.cmdOther 0xFFFF) := ⟨by rfl, by rfl, by rfl⟩

theorem test_witness_UnusedImmediateBitsIgnored :
    (0xD : BitVec 4) ∈ ([0x0, 0x6, 0x8, 0xA, 0xB, 0xC, 0xD] : List (BitVec 4))
    ∧ (0xE : BitVec 4) ∈ ([0x1, 0x2, 0x5, 0xE] : List (BitVec 4))
    ∧ (0x0001FFFF : Word).extractLsb' 0 16 = (0xABCDFFFF : Word).extractLsb' 0 16
    ∧ (0xF : BitVec 4) ∈ ([0x7, 0x9, 0xF] : List (BitVec 4))
    ∧ (0x000001FF : Word).extractLsb' 0 8 = (0xABCDEFFF : Word).extractLsb' 0 8 := by decide

theorem test_witness_ResetLeavesTableValues :
    Config.station.admitted = true ∧ cfgC.admitted = true ∧ testPar.admitted = true
    ∧ Station.admitted { cfgC with dataRate := 1, fmtPhasor := .rect } = true := by decide

theorem test_witness_FaultStateRefusesRequests :
    Instr.isRequest (.putU8 0) = true ∧ (rst.setFault 0x0001).fault ≠ 0 := by decide

theorem test_witness_FaultStaysUntilReset :
    ∃ t, ((rst.setFault 0x0004).setPending [.request 0]).pending = [HostMove.request 0]
      ∧ HostMove.isReset (.request 0) = false ∧ (rst.setFault 0x0004).fault ≠ 0
      ∧ step ((rst.setFault 0x0004).setPending [.request 0]) = .next t := ⟨_, rfl, rfl, by decide, rfl⟩

theorem test_witness_ObufClearEmptiesOutput : rst.fault = 0 := by decide

theorem test_witness_PutAppendsBigEndian :
    rst.fault = 0 ∧ ({ rst with olen := 65531 } : State).olen.toNat + 4 ≤ 65535
    ∧ ({ rst with olen := 65533 } : State).olen.toNat + 2 ≤ 65535 ∧ ({ rst with olen := 65534 } : State).olen.toNat + 1 ≤ 65535 := by
  decide

theorem test_witness_OverflowChangesFaultOnly :
    rst.fault = 0 ∧ 65535 < ({ rst with olen := 65532 } : State).olen.toNat + 4
    ∧ 65535 < ({ rst with olen := 65534 } : State).olen.toNat + 2 ∧ 65535 < ({ rst with olen := 65535 } : State).olen.toNat + 1
    ∧ (2 : Half).toNat ≤ rst.cfg.phName.length + rst.cfg.anName.length
    ∧ 65535 < ({ rst with olen := 65520 } : State).olen.toNat + 16 := by decide

theorem test_witness_NameFieldPadsAndCuts : 16 ≤ (List.replicate 16 (0x41 : Byte)).length ∧ (List.replicate 15 (0x41 : Byte)).length < 16 := by
  decide

theorem test_witness_PutNameAppendsSelected :
    rst.fault = 0 ∧ rst.cfg.phName.length + rst.cfg.anName.length < (3 : Half).toNat
    ∧ (2 : Half).toNat ≤ rst.cfg.phName.length + rst.cfg.anName.length
    ∧ 65535 < ({ rst with olen := 65520 } : State).olen.toNat + 16
    ∧ ({ rst with olen := 65519 } : State).olen.toNat + 16 ≤ 65535
    ∧ (0 : Half).toNat = 0 ∧ rst.cfg.stn = [0x50, 0x4D, 0x55, 0x31]
    ∧ (1 : Half).toNat ≤ rst.cfg.phName.length ∧ rst.cfg.phName[(1 : Half).toNat - 1]? = some [0x56, 0x41]
    ∧ ¬ (2 : Half).toNat ≤ rst.cfg.phName.length
    ∧ rst.cfg.anName[(2 : Half).toNat - rst.cfg.phName.length - 1]? = some [0x41, 0x31] := by decide

theorem test_witness_RangeErrorChangesFaultOnly :
    rst.fault = 0 ∧ (loadIn v40 rst).ilen.toNat < (9 : Half).toNat + 2
    ∧ rst.cfg.phName.length + rst.cfg.anName.length < (3 : Half).toNat ∧ ({ rst with olen := 3 } : State).olen.toNat < 4 := by decide

theorem test_witness_GetHalfReadsInput :
    busy.fault = 0 ∧ busy.buffersHold ∧ (8 : Half).toNat + 2 ≤ busy.ilen.toNat ∧ busy.ilen.toNat < (9 : Half).toNat + 2 := by decide

theorem test_witness_CrcInitAndByteUpdateRegister : busy.fault = 0 := by decide

theorem test_witness_CrcObufCoversOutput : busy.fault = 0 ∧ busy.buffersHold := by decide

theorem test_witness_HandAccumulatedCrc : busy.fault = 0 := by decide

theorem test_witness_FrameBeginOpensFrame : busy.fault = 0 := by decide

theorem test_witness_FrameEndClosesFrame :
    (∀ n, n = 4 ∨ n = 65533 → (withOut (List.replicate n 0) rst).fault = 0 ∧ (withOut (List.replicate n 0) rst).buffersHold
      ∧ 4 ≤ (withOut (List.replicate n 0) rst).olen.toNat ∧ (withOut (List.replicate n 0) rst).olen.toNat + 2 ≤ 65535) := by
  rintro n (rfl | rfl) <;>
    exact ⟨rfl, withOut_holds _ (by omega), by simp only [withOut, List.length_replicate]; decide,
      by simp only [withOut, List.length_replicate]; decide⟩

theorem test_witness_FrameEndClosesFrame_limits :
    rst.fault = 0 ∧ ({ rst with olen := 3 } : State).olen.toNat < 4 ∧ 65535 < ({ rst with olen := 65534 } : State).olen.toNat + 2 := by
  decide

theorem test_witness_ClosedFramesAreWhole :
    (withOut [1, 2, 3, 4] rst).buffersHold
    ∧ ∀ i, i = .frameEnd ∨ i = .buildCfg2 ∨ i = .buildData →
      get State.outcome (exec i ({ (withOut [1, 2, 3, 4] rst) with cfg := cfgC })) = some (some .done) := by
  refine ⟨by decide, ?_⟩
  rintro i (rfl | rfl | rfl)
  · decide +kernel
  · decide +kernel
  · rfl

theorem test_witness_BuildCfg2LeavesLayout :
    rst.fault = 0 ∧ rst.cfg.admitted = true ∧ (hostRst cfgC).fault = 0 ∧ (hostRst cfgC).cfg.admitted = true := by decide

theorem test_witness_BuildDataLeavesLayout :
    flowing.fault = 0 ∧ flowing.cfg.admitted = true ∧ flowing.timeIn = some ⟨1, 2⟩ ∧ flowing.smpIn = some ⟨[], 3, 4, []⟩
    ∧ ([] : List Phasor).length = flowing.cfg.phName.length ∧ ([] : List Word).length = flowing.cfg.anName.length := by decide

theorem test_witness_BuildDataRunsOnAnyInputs : rst.fault = 0 ∧ rst.cfg.admitted = true ∧ rst.timeIn = none := by decide

theorem test_witness_ConfigurationFrameIgnoresState :
    ∃ t t', rst.fault = 0 ∧ busy.fault = 0 ∧ rst.cfg = busy.cfg ∧ rst.par = busy.par ∧ rst.cfg.admitted = true
      ∧ exec .buildCfg2 rst = .next t ∧ exec .buildCfg2 busy = .next t' := by
  obtain ⟨_, _, _, h, -, -⟩ := buildCfg2_outIs rst (by decide)
  obtain ⟨_, _, _, h', -, -⟩ := buildCfg2_outIs busy (by decide)
  exact ⟨_, _, rfl, rfl, rfl, rfl, by decide, by rw [exec, execBuildCfg2, operation_ready rfl, h]; rfl,
    by rw [exec, execBuildCfg2, operation_ready rfl, h']; rfl⟩

theorem test_witness_ParseFollowsResultTable : busy.fault = 0 ∧ busy.buffersHold := by decide

theorem test_witness_ShortChunkIsTooShort :
    rst.fault = 0 ∧ (loadIn (v40.take 9) rst).ilen.toNat < 10 ∧ 10 ≤ (loadIn v40 rst).ilen.toNat
    ∧ get State.outcome (exec .parseCmd (loadIn v40 rst)) = some (some .done) := by decide +kernel

theorem test_witness_WellFormedCommandFrameAccepted :
    rst.fault = 0 ∧ (1 : Half) = rst.cfg.pmuId ∧ (List.replicate 65525 (0 : Byte)).length + 10 ≤ 65535
    ∧ (List.replicate 65525 (0 : Byte)).length + 10 + ([] : List Byte).length ≤ 65535
    ∧ ([] : List Byte).length + 10 + (List.replicate 65525 (0 : Byte)).length ≤ 65535 :=
  ⟨by decide, by decide, by simp only [List.length_replicate]; decide, by simp only [List.length_replicate]; decide,
    by simp only [List.length_replicate]; decide⟩

theorem test_witness_BytesBeyondSizeIgnored :
    rst.fault = 0 ∧ v40.length + [(0xFF : Byte)].length ≤ 65535 ∧ 10 ≤ v40.length ∧ (fieldAt v40 2).toNat ≤ v40.length := by decide

theorem test_witness_ParseReadsOnlyItsInputs :
    rst.fault = 0 ∧ (rst.setCrc 0).fault = 0
    ∧ get State.outcome (exec .parseCmd (loadIn v40 rst)) = some (some .done)
    ∧ get State.outcome (exec .parseCmd (loadIn v40 (rst.setCrc 0))) = some (some .done) := by decide +kernel

theorem test_witness_ParseIsRepeatable : ∃ t, rst.fault = 0 ∧ exec .parseCmd rst = .next t := ⟨_, by decide, rfl⟩

theorem test_witness_IbufLoadReplacesInput :
    (List.replicate 65535 (0 : Byte)).length ≤ 65535 ∧ 65535 < (List.replicate 65536 (0 : Byte)).length :=
  ⟨by simp only [List.length_replicate]; decide, by simp only [List.length_replicate]; decide⟩

theorem test_witness_ObufReadReturnsValidPart :
    busy.buffersHold ∧ get State.outcome (exec .frameEnd busy) = some (some .done) := by decide +kernel

theorem test_witness_DisableAndEnableMoveSession : busy.session ≠ none := by decide

theorem test_witness_SendClassSendsOneConfiguration :
    Instr.cmdOther 6 ∈ [Instr.cmdSendHdr, .cmdSendCfg1, .cmdSendCfg2, .cmdOther 6] ∧ busy.session ≠ none ∧ busy.fault = 0
    ∧ busy.cfg.admitted = true := by decide

/-- Three codes, one for each class. -/
theorem test_witness_EveryCodeActsByItsClass :
    busy.session ≠ none ∧ busy.fault = 0 ∧ busy.cfg.admitted = true ∧ (0x0001 : Half) = busy.par.cmdDisable
    ∧ (0x0002 : Half) = busy.par.cmdEnable ∧ (0xFFFF : Half) ≠ busy.par.cmdDisable ∧ (0xFFFF : Half) ≠ busy.par.cmdEnable := by decide

/-- Three codes, one for each class; the body of V40 is the second. -/
theorem test_witness_AcceptedFrameMovesSession :
    busy.fault = 0 ∧ busy.session ≠ none ∧ busy.cfg.admitted = true ∧ (1 : Half) = busy.cfg.pmuId
    ∧ busy.par.sync :: busy.par.typeCmd :: v40.drop 2 = frameOf busy.par.sync busy.par.typeCmd 1 (bytes16 0x0002 ++ [])
    ∧ (0x0001 : Half) = busy.par.cmdDisable ∧ (0x0002 : Half) = busy.par.cmdEnable
    ∧ (0x0005 : Half) ≠ busy.par.cmdDisable ∧ (0x0005 : Half) ≠ busy.par.cmdEnable := by decide +kernel

theorem test_witness_ForeignFrameKindsAreBadHeader :
    rst.fault = 0 ∧ rst.par.admitted = true ∧ 8 ≤ zeroBody.length ∧ (List.replicate 65533 (0 : Byte)).length + 2 ≤ 65535 :=
  ⟨by decide, by decide, by decide, by simp only [List.length_replicate]; decide⟩

theorem test_witness_FailedParseMakesNoTransition :
    ∃ t, runMove (.receive []) rst = .next t ∧ t.outcome = some (.error .tooShort) := ⟨_, rfl, rfl⟩

theorem test_witness_ReceiveIsLoadParseAct : v40.length ≤ 65535 := by decide

theorem test_witness_SchedulerSendsAtMostOne :
    flowing.session = some (.streaming 0) ∧ flowing.fault = 0 ∧ flowing.cfg.admitted = true
    ∧ emissionDue .exact 1 50 0 20 = true ∧ emissionDue .exact 1 50 0 19 = false
    ∧ busy.session = some .idle := by decide

theorem test_witness_EmissionDueAtInterval : (1 : Nat) ≤ 1 ∧ (1 : Nat) ≤ 50 := by decide

theorem test_witness_ConfigurationResponseGoesFirst :
    busy.fault = 0 ∧ busy.session ≠ none ∧ busy.cfg.admitted = true ∧ (0xFFFF : Half) = 0xFFFF
    ∧ (0x0003 : Half) ≠ busy.par.cmdDisable ∧ (0x0003 : Half) ≠ busy.par.cmdEnable ∧ 1 ≤ busy.ticksPerMs
    ∧ busy.intervalDiv = .exact ∧ busy.cfg.dataRate.toNat ≤ 1000 := by decide

theorem test_witness_SessionLivesWithConnection : rst.session = none ∧ rst.fault = 0 ∧ busy.session ≠ none := by decide

theorem test_witness_OperationsWriteOnlyTheirOwn :
    ∃ t, Instr.isRequest .obufClear = true ∧ exec .obufClear busy = .next t
      ∧ Instr.obufClear ≠ .parseCmd ∧ (∀ k, Instr.obufClear ≠ .getU16 k) ∧ (∀ b, Instr.obufClear ≠ .crcByte b)
      ∧ Instr.obufClear ∉ [Instr.crcInit, .crcObuf, .frameEnd, .buildCfg2, .buildData, .parseCmd]
      ∧ Instr.crcInit ∈ [Instr.crcInit, .crcObuf, .parseCmd] ∧ Instr.obufClear ≠ .buildData :=
  ⟨_, rfl, rfl, by decide, fun k h => (by cases h), fun b h => (by cases h), by decide, by decide, by decide⟩

theorem test_witness_OutputLengthNeverShrinks :
    ∃ t, Instr.isRequest (.putU16 1) = true ∧ Instr.putU16 1 ∉ [Instr.obufClear, .buildCfg2, .buildData]
      ∧ (∀ y, Instr.putU16 1 ≠ .frameBegin y) ∧ exec (.putU16 1) rst = .next t :=
  ⟨_, rfl, by decide, fun y h => (by cases h), rfl⟩

theorem test_witness_ConfigurationChangesAtResetOnly :
    ∃ t, (rst.setPending [.disconnect]).pending = [HostMove.disconnect] ∧ HostMove.isReset .disconnect = false
      ∧ step (rst.setPending [.disconnect]) = .next t := ⟨_, rfl, rfl, rfl⟩

theorem test_witness_InvariantHoldsAtReset : cfgB.admitted = true ∧ testPar.admitted = true := by decide

theorem test_witness_StepKeepsInvariant : ∃ t, busy.Inv ∧ step busy = .next t := ⟨busy, by decide, rfl⟩

theorem test_witness_AdmittedMovesComplete :
    (busy.setPending [.receive v40]).Inv ∧ HostMove.admitted (.receive v40) = true ∧ HostMove.admitted (.reset cfgB testPar) = true := by
  decide

theorem test_witness_WireCarriesWholeFrames :
    ∃ t, (busy.addWire (cfg2Frame cfgC testPar)).Inv ∧ (∀ f ∈ (busy.addWire (cfg2Frame cfgC testPar)).wire, wholeFrame f)
      ∧ step (busy.addWire (cfg2Frame cfgC testPar)) = .next t := by
  refine ⟨_, by decide, fun f hf => ?_, rfl⟩
  have : f = cfg2Frame cfgC testPar := by simpa [State.addWire, busy, loadIn, withOut, hostRst, State.resetWith] using hf
  rw [this, cfg2Frame_eq]
  exact frameOf_whole _ _ _ _ (by rw [cfg2Fields_length]; decide)

end Sys2Proof.Tests
end

section
/-! Every admitted move of the host answers a next state. A move can stop only where a body ends by `stopped` (a byte that holds no
value) or a chunk or a reset is refused by name; the laws below say that no body stops while the buffers hold their valid parts, and
that acting on a command or on the clock needs no more than an admitted configuration, which every handled chunk keeps. -/
namespace Sys2Proof.Machine

/-- The operation part-way has not met a fault of the model: it is going on, or a fault of the block has ended it. -/
def Ended.Unstopped (r : Ended) : Prop := ∀ f, r ≠ .stopped f

theorem Ended.unstopped_going (s : State) : (Ended.going s).Unstopped := nofun

theorem Ended.unstopped_raised (c : FaultCause) (s : State) : (Ended.raised c s).Unstopped := nofun

/-- An operation answers a next state in every fault state, and in the others if its body does not stop. -/
theorem operation_completes {body : State → Ended} {s : State} (h : (body s).Unstopped) :
    ∃ t, operation body s = .next t := by
  by_cases hf : s.fault = 0
  · rw [operation_ready hf]
    cases hb : body s with
    | going u => exact ⟨_, rfl⟩
    | raised c u => exact ⟨_, rfl⟩
    | stopped f => exact absurd hb (h f)
  · exact ⟨_, operation_refused hf⟩

/-- An operation whose body writes the state and cannot fail. -/
theorem operation_going_completes (k : State → State) (s : State) :
    ∃ t, operation (fun u => .going (k u)) s = .next t :=
  operation_completes (Ended.unstopped_going (k s))

/-! ### No body of an operation stops -/

theorem append_unstopped (bs : List Byte) (s : State) : (append bs s).Unstopped := by
  by_cases h : s.olen.toNat + bs.length ≤ 65535
  · rw [append_fits h]
    exact Ended.unstopped_going _
  · rw [append_overflows (by omega)]
    exact Ended.unstopped_raised _ _

theorem putName_unstopped (k : Half) (s : State) : (putName k s).Unstopped := by
  by_cases h : k.toNat ≤ s.cfg.nph + s.cfg.nan
  · obtain ⟨name, -, e⟩ := putName_within h
    rw [e]
    exact append_unstopped _ _
  · rw [putName_past (by omega)]
    exact Ended.unstopped_raised _ _

theorem getHalf_unstopped (k : Half) {s : State} (hb : s.ibuf.holds s.ilen.toNat) : (getHalf k s).Unstopped := by
  by_cases h : k.toNat + 2 ≤ s.ilen.toNat
  · obtain ⟨b0, b1, -, -, e⟩ := getHalf_within hb h
    rw [e]
    exact Ended.unstopped_going _
  · rw [getHalf_past (by omega)]
    exact Ended.unstopped_raised _ _

theorem crcOverOut_unstopped {s : State} (hb : s.obuf.holds s.olen.toNat) : (crcOverOut s).Unstopped := by
  obtain ⟨xs, hxs⟩ := State.OutIs.of_holds hb
  rw [crcOverOut_outIs hxs]
  exact Ended.unstopped_going _

theorem frameBegin_unstopped (t : Byte) (s : State) : (frameBegin t s).Unstopped := by
  obtain ⟨m, n, e, -⟩ := frameBegin_outIs t s
  rw [e]
  exact Ended.unstopped_going _

/-- `Finalize` stops at none of its three ranges of OLEN (R145 to R147). -/
theorem finalize_unstopped {s : State} (hb : s.obuf.holds s.olen.toNat) : (finalize s).Unstopped := by
  by_cases h4 : s.olen.toNat < 4
  · rw [finalize_short h4]
    exact Ended.unstopped_raised _ _
  by_cases hl : 65535 < s.olen.toNat + 2
  · rw [finalize_long hl]
    exact Ended.unstopped_raised _ _
  obtain ⟨xs, hxs⟩ := State.OutIs.of_holds hb
  have holen := hxs.olen
  match xs with
  | b0 :: b1 :: x :: y :: rest =>
    simp only [List.length_cons] at holen
    obtain ⟨m, n, e, -⟩ := finalize_outIs (rest := rest) hxs (by omega)
    rw [e]
    exact Ended.unstopped_going _
  | [] | [_] | [_, _] | [_, _, _] =>
    simp only [List.length_cons, List.length_nil] at holen
    omega

theorem buildCfg2_unstopped {s : State} (hc : s.cfg.admitted = true) : (buildCfg2 s).Unstopped := by
  obtain ⟨c, m, n, e, -⟩ := buildCfg2_outIs s hc
  rw [e]
  exact Ended.unstopped_going _

theorem buildData_unstopped {s : State} (hc : s.cfg.admitted = true) : (buildData s).Unstopped := by
  obtain ⟨c, m, n, e, -⟩ := buildData_outIs s hc
  rw [e]
  exact Ended.unstopped_going _

theorem execParseCmd_completes {s : State} (hb : s.ibuf.holds s.ilen.toNat) : ∃ t, execParseCmd s = .next t := by
  by_cases hf : s.fault = 0
  · obtain ⟨bs, hbs⟩ := State.InIs.of_holds hb
    exact ⟨_, by rw [execParseCmd, if_neg (not_not.mpr hf), parse_inIs hbs]⟩
  · exact ⟨_, by rw [execParseCmd, if_pos hf]⟩

/-! ### Requests -/

theorem decodeRequest_isRequest (w : Request) : (decodeRequest w).isRequest = true := by
  unfold decodeRequest
  split <;> rfl

/-- Every request answers a next state while the buffers hold their valid parts and the configuration is admitted (R13, R266). -/
theorem exec_request_completes {i : Instr} (hi : i.isRequest = true) {s : State} (hb : s.buffersHold)
    (hc : s.cfg.admitted = true) : ∃ t, exec i s = .next t := by
  obtain ⟨hout, hin⟩ := hb
  cases i with
  | obufClear => exact operation_going_completes clearOut s
  | putU16 v => exact operation_completes (append_unstopped _ _)
  | putI16 v => exact operation_completes (append_unstopped _ _)
  | putU32 v => exact operation_completes (append_unstopped _ _)
  | putF32 w => exact operation_completes (append_unstopped _ _)
  | putName16 k => exact operation_completes (putName_unstopped k s)
  | crcInit => exact operation_going_completes (·.setCrc 0xFFFF) s
  | crcByte b => exact operation_going_completes (fun u => u.setCrc (crcByte u.crc b)) s
  | crcObuf => exact operation_completes (crcOverOut_unstopped hout)
  | frameBegin t => exact operation_completes (frameBegin_unstopped t s)
  | frameEnd => exact operation_completes (finalize_unstopped hout)
  | buildCfg2 => exact operation_completes (buildCfg2_unstopped hc)
  | buildData => exact operation_completes (buildData_unstopped hc)
  | parseCmd => exact execParseCmd_completes hin
  | getU16 k => exact operation_completes (getHalf_unstopped k hin)
  | putU8 b => exact operation_completes (append_unstopped _ _)
  | frameCmd | frameData | frameCfg2 | cmdDisable | cmdEnable | cmdSendHdr | cmdSendCfg1 | cmdSendCfg2 | cmdOther =>
    cases hi

/-! ### Acting on a class, receiving a chunk, the control loop -/

/-- A builder refused in the fault state sends nothing (R222, R248). -/
theorem sendThenStream_refused {body : State → Ended} {s : State} (hf : s.fault ≠ 0) :
    sendThenStream (operation body s) = .next (s.setOutcome (some .refused)) := by
  rw [operation_refused hf]
  rfl

/-- Acting on a class needs an admitted configuration only, and keeps it: the builder opens a fresh frame (R142). -/
theorem applyClass_completes (k : CmdClass) {s : State} (hc : s.cfg.admitted = true) :
    ∃ t, applyClass k s = .next t ∧ t.cfg = s.cfg := by
  obtain ⟨-, e⟩ | ⟨-, -, e⟩ | ⟨-, -, e⟩ | ⟨hs, rfl, e⟩ := applyClass_cases k s
  · exact ⟨_, e, rfl⟩
  · exact ⟨_, e, rfl⟩
  · exact ⟨_, e, rfl⟩
  · by_cases hf : s.fault = 0
    · obtain ⟨c, m, n, e', -⟩ := applyClass_sendCfg hs hf hc
      exact ⟨_, e', rfl⟩
    · exact ⟨_, e.trans (sendThenStream_refused hf), rfl⟩

/-- A command code, decoded to its row and run, is acted on by its class (R82, R193). -/
theorem exec_decodeCommand (p : Params) (code : Half) (s : State) :
    exec (decodeCommand p code) s = applyClass (classify p code) s := by
  unfold decodeCommand classify
  split_ifs <;> rfl

theorem react_completes {s : State} (hc : s.cfg.admitted = true) : ∃ t, react s = .next t ∧ t.cfg = s.cfg := by
  by_cases hd : s.outcome = some .done
  · rw [react, if_pos hd]
    exact applyClass_completes _ hc
  · exact ⟨s, by rw [react, if_neg hd], rfl⟩

/-- A chunk that fits IBUF is handled, whatever its bytes, and the configuration stays (R205 (a)). -/
theorem runReceive_completes {bs : List Byte} {s : State} (hl : bs.length ≤ ibufCap) (hc : s.cfg.admitted = true) :
    ∃ t, runReceive bs s = .next t ∧ t.cfg = s.cfg := by
  rw [runReceive_eq]
  by_cases hf : s.fault = 0
  · rw [receiveChunk_ready hl hf]
    exact react_completes hc
  · exact ⟨_, receiveChunk_refused hl hf, rfl⟩

theorem runAct_completes {s : State} (hc : s.cfg.admitted = true) : ∃ t, runAct s = .next t := by
  by_cases ha : mayAct s = true
  · obtain ⟨t, ht, -⟩ := applyClass_completes (classify s.par s.cmd) hc
    exact ⟨t, by rw [runAct, if_pos ha, exec_decodeCommand, ht]⟩
  · exact ⟨s, by rw [runAct, if_neg ha]⟩

/-- A due data frame, built and sent, or refused in the fault state (R202, R222). -/
theorem sendThenStream_buildData_completes {s : State} (hc : s.cfg.admitted = true) :
    ∃ t, sendThenStream (execBuildData s) = .next t := by
  by_cases hf : s.fault = 0
  · obtain ⟨c, m, n, e, o⟩ := execBuildData_ready hf hc
    rw [e]
    exact ⟨_, sendThenStream_sends rfl o.obufBytes⟩
  · exact ⟨_, sendThenStream_refused hf⟩

theorem schedule_completes {s : State} (hc : s.cfg.admitted = true) : ∃ t, schedule s = .next t := by
  unfold schedule
  split
  · split_ifs
    · exact sendThenStream_buildData_completes hc
    · exact ⟨s, rfl⟩
  · exact ⟨s, rfl⟩

/-- One iteration of the control loop: the chunk's handling leaves the configuration the scheduler builds from (R205). -/
theorem runTick_completes (now : Nat) {rx : List Byte} {s : State} (hl : rx.length ≤ ibufCap)
    (hc : s.cfg.admitted = true) : ∃ t, runTick now rx s = .next t := by
  have hrx : ∃ u, (if rx = [] then .next (s.setNow now) else runReceive rx (s.setNow now)) = .next u
      ∧ u.cfg = s.cfg := by
    split_ifs
    · exact ⟨_, rfl, rfl⟩
    · exact runReceive_completes (s := s.setNow now) hl hc
  obtain ⟨u, hu, hcfg⟩ := hrx
  unfold runTick
  split
  · exact ⟨_, rfl⟩
  · rw [hu]
    exact schedule_completes (hcfg ▸ hc)

/-! ### The host's moves -/

theorem hostIbufLoad_completes {bs : List Byte} {s : State} (hl : bs.length ≤ ibufCap) :
    ∃ t, hostIbufLoad bs s = .next t :=
  ⟨loadIn bs s, by rw [hostIbufLoad, if_neg (by omega)]⟩

theorem hostObufRead_completes {s : State} (hb : s.obuf.holds s.olen.toNat) : ∃ t, hostObufRead s = .next t := by
  obtain ⟨xs, hxs⟩ := State.OutIs.of_holds hb
  exact ⟨s.setHostBytes xs, by rw [hostObufRead, hxs.obufBytes]⟩

theorem HostMove.admitted_chunkLength {m : HostMove} (h : m.admitted = true) : m.chunkLength ≤ ibufCap := by
  unfold HostMove.admitted at h
  exact of_decide_eq_true (Bool.and_eq_true_iff.mp h).1

theorem HostMove.admitted_reset {c : Station} {p : Params} (h : HostMove.admitted (.reset c p) = true) :
    (c.admitted && p.admitted) = true := by
  unfold HostMove.admitted at h
  exact (Bool.and_eq_true_iff.mp h).2

/-- Every admitted move answers a next state where the buffers hold their valid parts and the configuration is admitted. -/
theorem runMove_completes {m : HostMove} (hm : m.admitted = true) {s : State} (hb : s.buffersHold)
    (hc : s.cfg.admitted = true) : ∃ t, runMove m s = .next t := by
  have hl := m.admitted_chunkLength hm
  cases m with
  | request w => exact exec_request_completes (decodeRequest_isRequest w) hb hc
  | ibufLoad bs => exact hostIbufLoad_completes hl
  | obufRead => exact hostObufRead_completes hb.1
  | regRead idx => exact ⟨_, rfl⟩
  | regWrite idx v => exact ⟨_, rfl⟩
  | present t x => exact ⟨_, rfl⟩
  | presentDegrees t x => exact ⟨_, rfl⟩
  | reset c p => exact ⟨resetBlock c p s, by rw [runMove, hostReset, if_pos (HostMove.admitted_reset hm)]⟩
  | connect => exact ⟨_, rfl⟩
  | disconnect => exact ⟨_, rfl⟩
  | receive bs =>
    obtain ⟨t, ht, -⟩ := runReceive_completes hl hc
    exact ⟨t, ht⟩
  | act => exact runAct_completes hc
  | tick now rx => exact runTick_completes now hl hc

/-- Settles O52: of the invariant, only the buffers' valid parts and the admitted configuration are needed. -/
theorem admittedMovesComplete : Obligations.AdmittedMovesComplete := by
  rintro s ⟨hb, -, -, -, -, hc, -⟩ hadm
  cases hp : s.pending with
  | nil => exact ⟨s, by rw [step, fetchAndRun, hp]⟩
  | cons m rest =>
    rw [step_cons hp]
    exact runMove_completes (s := s.setPending rest) (hadm m rest hp) hb hc

end Sys2Proof.Machine
end

section
/-! What a request leaves, said once: the bodies of the operations end in states of a few shapes (an append, a freshly opened OBUF, a
rewritten CRC), up to the fault bit they raise, and every request leaves the shape of its body. -/
namespace Sys2Proof.Machine

/-- The operation is in a state of `R`, or has raised OVF or RNG from one (CFG_ERR is raised by no operation, R216, R217). -/
def Ended.Reaches (R : State → Prop) : Ended → Prop
  | .going u => R u
  | .raised c u => c ≠ .cfgErr ∧ ∃ v, R v ∧ u = raiseFault c v
  | .stopped _ => True

theorem raise_reaches {R : State → Prop} {c : FaultCause} {s : State} (hc : c ≠ .cfgErr) (hs : R s) :
    (raise c s).Reaches R :=
  ⟨hc, s, hs, rfl⟩

theorem Ended.Reaches.mono {R Q : State → Prop} {r : Ended} (h : r.Reaches R) (hQ : ∀ u, R u → Q u) : r.Reaches Q := by
  cases r with
  | going u => exact hQ u h
  | raised c u =>
    obtain ⟨hc, v, hv, hu⟩ := h
    exact ⟨hc, v, hQ v hv, hu⟩
  | stopped f => trivial

/-- A second part runs from where the first is going; what the first raised stays. -/
theorem Ended.Reaches.andThen {R Q : State → Prop} {r : Ended} {k : State → Ended} (h : r.Reaches R)
    (hQ : ∀ u, R u → Q u) (hk : ∀ u, R u → (k u).Reaches Q) : (r.andThen k).Reaches Q := by
  cases r with
  | going u => exact hk u h
  | raised c u => exact Ended.Reaches.mono h hQ
  | stopped f => trivial

/-- The values FAULT can have after a request outside the fault state: none raised, OVF, RNG. -/
def requestFaults : List Half := [0x0000, 0x0002, 0x0004]

/-- Everything an operation can do when it answers a next state, by the states its body reaches. -/
theorem operation_next_reaches {body : State → Ended} {R : State → Prop} {s t : State} (h : operation body s = .next t)
    (hb : (body s).Reaches R) (hR : ∀ v, R v → v.fault = s.fault) :
    (s.fault ≠ 0 ∧ t = s.setOutcome (some .refused))
      ∨ (s.fault = 0 ∧ ∃ v f e, R v ∧ f ∈ requestFaults ∧ t = (v.setFault f).setOutcome e) := by
  obtain hrefused | ⟨hf, u, hu, rfl⟩ | ⟨hf, c, u, hu, rfl⟩ := operation_next h
  · exact .inl hrefused
  · rw [hu] at hb
    have hu0 : u.fault = 0 := (hR u hb).trans hf
    exact .inr ⟨hf, u, 0, _, hb, by simp [requestFaults], by rw [← hu0]; rfl⟩
  · rw [hu] at hb
    obtain ⟨hc, v, hv, rfl⟩ := hb
    refine .inr ⟨hf, v, faultBit c, _, hv, ?_, by rw [raiseFault_first ((hR v hv).trans hf)]⟩
    cases c with
    | cfgErr => exact absurd rfl hc
    | ovf | rng => simp [requestFaults, faultBit]

/-! ### The shapes -/

/-- Only OBUF and OLEN differ, OLEN has not shrunk, and OBUF holds exactly its valid part if it did. -/
def State.Appends (s u : State) : Prop :=
  ∃ m n, u = s.setOut m n ∧ s.olen.toNat ≤ n.toNat ∧ (s.obuf.holds s.olen.toNat → m.holds n.toNat)

/-- Only OBUF and OLEN differ, and OBUF holds exactly its valid part, whatever it held before. -/
def State.Opens (s u : State) : Prop :=
  ∃ m n, u = s.setOut m n ∧ m.holds n.toNat

theorem State.Appends.refl (s : State) : s.Appends s := ⟨s.obuf, s.olen, rfl, le_refl _, id⟩

theorem State.Appends.trans {s u v : State} (h : s.Appends u) (h' : u.Appends v) : s.Appends v := by
  obtain ⟨m, n, rfl, hn, hm⟩ := h
  obtain ⟨m', n', rfl, hn', hm'⟩ := h'
  exact ⟨m', n', rfl, hn.trans hn', hm' ∘ hm⟩

theorem State.Appends.setCrc {s u : State} (h : s.Appends u) (c : Half) : (s.setCrc c).Appends (u.setCrc c) := by
  obtain ⟨m, n, rfl, hn, hm⟩ := h
  exact ⟨m, n, rfl, hn, hm⟩

theorem State.Opens.appends {s u v : State} (h : s.Opens u) (h' : u.Appends v) : s.Opens v := by
  obtain ⟨m, n, rfl, hm⟩ := h
  obtain ⟨m', n', rfl, -, hm'⟩ := h'
  exact ⟨m', n', rfl, hm' hm⟩

theorem State.Opens.setCrc {s u : State} (h : s.Opens u) (c : Half) : (s.setCrc c).Opens (u.setCrc c) := by
  obtain ⟨m, n, rfl, hm⟩ := h
  exact ⟨m, n, rfl, hm⟩

/-! ### What each body reaches -/

theorem append_reaches (bs : List Byte) (s : State) : (append bs s).Reaches s.Appends := by
  by_cases h : s.olen.toNat + bs.length ≤ 65535
  · have hn : (BitVec.ofNat 16 (s.olen.toNat + bs.length)).toNat = s.olen.toNat + bs.length := by
      rw [BitVec.toNat_ofNat]
      omega
    rw [append_fits h]
    refine ⟨_, _, rfl, by omega, fun hb => ?_⟩
    have := Memory.holds_writeBytes hb bs le_rfl
    rwa [max_eq_right (by omega), ← hn] at this
  · rw [append_overflows (by omega)]
    exact raise_reaches nofun (.refl s)

theorem appendAll_reaches (fs : List (List Byte)) (s : State) : (appendAll fs s).Reaches s.Appends := by
  induction fs generalizing s with
  | nil => exact State.Appends.refl s
  | cons f fs ih =>
    exact (append_reaches f s).andThen (fun _ => id) fun u hu => (ih u).mono fun _ => hu.trans

theorem putName_reaches (k : Half) (s : State) : (putName k s).Reaches s.Appends := by
  by_cases h : k.toNat ≤ s.cfg.nph + s.cfg.nan
  · obtain ⟨name, -, e⟩ := putName_within h
    rw [e]
    exact append_reaches _ s
  · rw [putName_past (by omega)]
    exact raise_reaches nofun (.refl s)

theorem getHalf_reaches (k : Half) (s : State) : (getHalf k s).Reaches fun u => ∃ w, u = s.setRdata w := by
  unfold getHalf
  split_ifs
  · exact raise_reaches nofun ⟨s.rdata, rfl⟩
  · split
    · trivial
    · exact ⟨_, rfl⟩

theorem crcOverOut_reaches (s : State) : (crcOverOut s).Reaches fun u => ∃ c, u = s.setCrc c := by
  unfold crcOverOut
  split
  · trivial
  · exact ⟨_, rfl⟩

theorem clearOut_opens (s : State) : s.Opens (clearOut s) := ⟨[], 0, rfl, rfl⟩

theorem frameBegin_reaches (y : Byte) (s : State) : (frameBegin y s).Reaches s.Opens := by
  obtain ⟨m, n, e, o⟩ := frameBegin_outIs y s
  rw [e]
  have hm := o.holds
  rw [← o.olen] at hm
  exact ⟨m, n, rfl, hm⟩

/-- `Finalize` overwrites the size inside the valid part, writes CRC and appends it (R145). -/
theorem finalize_reaches (s : State) : (finalize s).Reaches fun u => ∃ c, (s.setCrc c).Appends u := by
  unfold finalize
  split_ifs with h4 hl
  · exact raise_reaches nofun ⟨s.crc, .refl s⟩
  · exact raise_reaches nofun ⟨s.crc, .refl s⟩
  have hsize (size : Half) : s.Appends (s.setOut (s.obuf.writeBytes 2 (bytes16 size)) s.olen) := by
    refine ⟨_, _, rfl, le_refl _, fun hb => ?_⟩
    have := Memory.holds_writeBytes hb (bytes16 size) (a := 2) (by omega)
    rwa [bytes16_length, max_eq_left (by omega)] at this
  refine (crcOverOut_reaches _).andThen ?_ ?_
  · rintro _ ⟨c, rfl⟩
    exact ⟨c, (hsize _).setCrc c⟩
  · rintro _ ⟨c, rfl⟩
    exact (append_reaches _ _).mono fun _ hu => ⟨c, ((hsize _).setCrc c).trans hu⟩

/-- A header, fields and Finalize: a fresh OBUF, and CRC rewritten (R140, R142). -/
theorem buildFrame_reaches (y : Byte) (fs : List (List Byte)) (s : State) :
    (((frameBegin y s).andThen (appendAll fs)).andThen finalize).Reaches fun u => ∃ c, (s.setCrc c).Opens u := by
  have hopen (u : State) (hu : s.Opens u) : ∃ c, (s.setCrc c).Opens u := ⟨s.crc, hu⟩
  have hfields : ((frameBegin y s).andThen (appendAll fs)).Reaches s.Opens :=
    (frameBegin_reaches y s).andThen (fun _ => id) fun u hu => (appendAll_reaches fs u).mono fun _ => hu.appends
  refine hfields.andThen hopen fun u hu => (finalize_reaches u).mono ?_
  rintro v ⟨c, hv⟩
  exact ⟨c, (hu.setCrc c).appends hv⟩

/-! ### What each request leaves -/

/-- The state a request that is not refused leaves, up to FAULT and the recorded outcome. The rows that are no requests leave none. -/
def requestLeaves (i : Instr) (s v : State) : Prop :=
  match i with
  | .putU16 _ | .putI16 _ | .putU32 _ | .putF32 _ | .putName16 _ | .putU8 _ => s.Appends v
  | .obufClear | .frameBegin _ => s.Opens v
  | .crcInit | .crcByte _ | .crcObuf => ∃ c, v = s.setCrc c
  | .frameEnd => ∃ c, (s.setCrc c).Appends v
  | .buildCfg2 => ∃ c, (s.setCrc c).Opens v
  | .buildData => ∃ c, (s.takeInputs.setCrc c).Opens v
  | .getU16 _ => ∃ w, v = s.setRdata w
  | .parseCmd => ∃ r, parse s = some r ∧ v = recordParse r s
  | .frameCmd _ | .frameData _ | .frameCfg2 _ | .cmdDisable | .cmdEnable | .cmdSendHdr | .cmdSendCfg1 | .cmdSendCfg2
  | .cmdOther _ => False

theorem requestLeaves_fault_eq {i : Instr} {s v : State} (h : requestLeaves i s v) : v.fault = s.fault := by
  cases i with
  | putU16 | putI16 | putU32 | putF32 | putName16 | putU8 =>
    obtain ⟨m, n, rfl, -⟩ := h
    rfl
  | obufClear | frameBegin =>
    obtain ⟨m, n, rfl, -⟩ := h
    rfl
  | frameEnd | buildCfg2 | buildData =>
    obtain ⟨c, m, n, rfl, -⟩ := h
    rfl
  | crcInit | crcByte | crcObuf | getU16 =>
    obtain ⟨c, rfl⟩ := h
    rfl
  | parseCmd =>
    obtain ⟨r, -, rfl⟩ := h
    rfl
  | frameCmd | frameData | frameCfg2 | cmdDisable | cmdEnable | cmdSendHdr | cmdSendCfg1 | cmdSendCfg2 | cmdOther =>
    exact h.elim

/-- Everything a request can do when it answers a next state: it is refused in the fault state, or leaves the state of its row, FAULT
with the bit it has raised, and its outcome. -/
theorem exec_request_next {i : Instr} (hi : i.isRequest = true) {s t : State} (h : exec i s = .next t) :
    (s.fault ≠ 0 ∧ t = s.setOutcome (some .refused))
      ∨ (s.fault = 0 ∧ ∃ v f e, requestLeaves i s v ∧ f ∈ requestFaults ∧ t = (v.setFault f).setOutcome e) := by
  have ends {body : State → Ended} (hx : exec i s = operation body s) (hb : (body s).Reaches (requestLeaves i s)) :=
    operation_next_reaches (hx.symm.trans h) hb fun _ => requestLeaves_fault_eq
  cases i with
  | obufClear => exact ends (body := fun u => .going (clearOut u)) rfl (clearOut_opens s)
  | putU16 | putI16 | putU32 | putF32 | putU8 => exact ends rfl (append_reaches _ s)
  | putName16 k => exact ends rfl (putName_reaches k s)
  | crcInit => exact ends (body := fun u => .going (u.setCrc 0xFFFF)) rfl ⟨_, rfl⟩
  | crcByte b => exact ends (body := fun u => .going (u.setCrc (crcByte u.crc b))) rfl ⟨_, rfl⟩
  | crcObuf => exact ends rfl (crcOverOut_reaches s)
  | frameBegin y => exact ends rfl (frameBegin_reaches y s)
  | frameEnd => exact ends rfl (finalize_reaches s)
  | buildCfg2 => exact ends rfl (buildFrame_reaches _ _ s)
  | buildData => exact ends rfl (buildFrame_reaches _ _ s.takeInputs)
  | getU16 k => exact ends rfl (getHalf_reaches k s)
  | parseCmd =>
    obtain hrefused | ⟨hf, r, hr, rfl⟩ := execParseCmd_next h
    · exact .inl hrefused
    · exact .inr ⟨hf, recordParse r s, 0, _, ⟨r, hr, rfl⟩, by simp [requestFaults], by rw [← hf]; rfl⟩
  | frameCmd | frameData | frameCfg2 | cmdDisable | cmdEnable | cmdSendHdr | cmdSendCfg1 | cmdSendCfg2 | cmdOther =>
    cases hi

/-- Settles O47: a refused request writes its outcome only, and each other one what its row leaves. -/
theorem operationsWriteOnlyTheirOwn : Obligations.OperationsWriteOnlyTheirOwn := by
  intro i s t hi h
  obtain ⟨-, rfl⟩ | ⟨-, v, f, e, hv, -, rfl⟩ := exec_request_next hi h
  · exact ⟨rfl, fun _ => ⟨rfl, rfl⟩, fun _ => rfl, fun _ _ => rfl, fun _ => ⟨rfl, rfl⟩, fun _ => ⟨rfl, rfl, rfl⟩⟩
  cases i with
  | putU16 | putI16 | putU32 | putF32 | putName16 | putU8 =>
    obtain ⟨m, n, rfl, -⟩ := hv
    exact ⟨rfl, by simp⟩
  | obufClear | frameBegin =>
    obtain ⟨m, n, rfl, -⟩ := hv
    exact ⟨rfl, by simp⟩
  | frameEnd | buildCfg2 | buildData =>
    obtain ⟨c, m, n, rfl, -⟩ := hv
    exact ⟨rfl, by simp⟩
  | crcInit | crcByte | crcObuf | getU16 =>
    obtain ⟨c, rfl⟩ := hv
    exact ⟨rfl, by simp⟩
  | parseCmd =>
    obtain ⟨r, -, rfl⟩ := hv
    exact ⟨rfl, by simp [recordParse]⟩
  | frameCmd | frameData | frameCfg2 | cmdDisable | cmdEnable | cmdSendHdr | cmdSendCfg1 | cmdSendCfg2 | cmdOther =>
    exact hv.elim

/-- Settles O48: what appends only grows OBUF, and the rest but the excepted requests leaves OLEN as it is. -/
theorem outputLengthNeverShrinks : Obligations.OutputLengthNeverShrinks := by
  intro i s t hi hopen hbegin h
  obtain ⟨-, rfl⟩ | ⟨-, v, f, e, hv, -, rfl⟩ := exec_request_next hi h
  · exact le_rfl
  cases i with
  | putU16 | putI16 | putU32 | putF32 | putName16 | putU8 =>
    obtain ⟨m, n, rfl, hn, -⟩ := hv
    exact hn
  | frameEnd =>
    obtain ⟨c, m, n, rfl, hn, -⟩ := hv
    exact hn
  | crcInit | crcByte | crcObuf | getU16 =>
    obtain ⟨c, rfl⟩ := hv
    exact le_rfl
  | parseCmd =>
    obtain ⟨r, -, rfl⟩ := hv
    exact le_rfl
  | obufClear | buildCfg2 | buildData => exact absurd (by simp) hopen
  | frameBegin y => exact absurd rfl (hbegin y)
  | frameCmd | frameData | frameCfg2 | cmdDisable | cmdEnable | cmdSendHdr | cmdSendCfg1 | cmdSendCfg2 | cmdOther =>
    exact hv.elim

end Sys2Proof.Machine
end

section
/-! What every move but a reset keeps, said once: the configuration and the parameters stay, FAULT only leaves 0, the other fields of the
invariant stay or become legal. The relation is reflexive and transitive, so that a move of several parts is a chain of them. -/
namespace Sys2Proof.Machine

/-- What a run between two resets keeps of the fields the invariant speaks of (R28, R31, R33, R34, R38, R222). -/
structure State.Evolves (s t : State) : Prop where
  cfg    : t.cfg = s.cfg
  par    : t.par = s.par
  fault  : t.fault = s.fault ∨ (s.fault = 0 ∧ t.fault ∈ requestFaults)
  ctrl   : t.ctrl = s.ctrl ∨ t.ctrl ∈ ([0x0000, 0x0001] : List Half)
  out    : s.obuf.holds s.olen.toNat → t.obuf.holds t.olen.toNat
  inp    : s.ibuf.holds s.ilen.toNat → t.ibuf.holds t.ilen.toNat
  status : s.ibuf.holds s.ilen.toNat → t.status = s.status ∨ t.status ∈ legalStatus

/-- The fields the invariant speaks of. -/
def State.guarded (s : State) : Station × Params × Half × Half × Half × (Memory × Half) × (Memory × Half) :=
  (s.cfg, s.par, s.fault, s.ctrl, s.status, (s.obuf, s.olen), (s.ibuf, s.ilen))

theorem State.Evolves.of_guarded_eq {s t : State} (h : t.guarded = s.guarded) : s.Evolves t := by
  simp only [State.guarded, Prod.mk.injEq] at h
  obtain ⟨hcfg, hpar, hfault, hctrl, hstatus, ⟨hobuf, holen⟩, hibuf, hilen⟩ := h
  exact ⟨hcfg, hpar, .inl hfault, .inl hctrl, by rw [hobuf, holen]; exact id, by rw [hibuf, hilen]; exact id,
    fun _ => .inl hstatus⟩

theorem State.Evolves.refl (s : State) : s.Evolves s := .of_guarded_eq rfl

theorem State.Evolves.trans {s u t : State} (h : s.Evolves u) (h' : u.Evolves t) : s.Evolves t where
  cfg := h'.cfg.trans h.cfg
  par := h'.par.trans h.par
  fault := by
    obtain e | ⟨hu, ht⟩ := h'.fault
    · rw [e]
      exact h.fault
    · obtain e | ⟨hs, -⟩ := h.fault
      · exact .inr ⟨e ▸ hu, ht⟩
      · exact .inr ⟨hs, ht⟩
  ctrl := by
    obtain e | hc := h'.ctrl
    · rw [e]
      exact h.ctrl
    · exact .inr hc
  out := h'.out ∘ h.out
  inp := h'.inp ∘ h.inp
  status := fun hin => by
    obtain e | hl := h'.status (h.inp hin)
    · rw [e]
      exact h.status hin
    · exact .inr hl

/-! ### Requests -/

theorem State.Appends.evolves {s u : State} (h : s.Appends u) : s.Evolves u := by
  obtain ⟨m, n, rfl, -, hm⟩ := h
  exact { State.Evolves.refl s with out := hm }

theorem State.Opens.evolves {s u : State} (h : s.Opens u) : s.Evolves u := by
  obtain ⟨m, n, rfl, hm⟩ := h
  exact { State.Evolves.refl s with out := fun _ => hm }

/-- STATUS after any row of the table of R182 is legal. -/
theorem parseTable_status_legal (p : Params) (id : Half) (enforce : Bool) (crc cmd : Half) (bs : List Byte) :
    parseStatus (parseTable p id enforce crc cmd bs).res (parseTable p id enforce crc cmd bs).bad ∈ legalStatus := by
  have hid (bad : Bool) : parseStatus (some .idMismatch) bad ∈ legalStatus := by cases bad <;> decide
  have hok (bad : Bool) : parseStatus none bad ∈ legalStatus := by cases bad <;> decide
  unfold parseTable
  dsimp only
  split_ifs
  · show parseStatus (some .tooShort) false ∈ legalStatus
    decide
  · show parseStatus (some .badHeader) false ∈ legalStatus
    decide
  · show parseStatus (some .badLength) false ∈ legalStatus
    decide
  · show parseStatus (some .crcMismatch) true ∈ legalStatus
    decide
  · exact hid _
  · exact hok _

theorem recordParse_evolves {r : Parsed} {s : State} (h : parse s = some r) : s.Evolves (recordParse r s) where
  __ := State.Evolves.refl s
  status := fun hin => by
    obtain ⟨bs, hbs⟩ := State.InIs.of_holds hin
    cases h.symm.trans (parse_inIs hbs)
    exact .inr (parseTable_status_legal ..)

theorem requestLeaves_evolves {i : Instr} {s v : State} (h : requestLeaves i s v) : s.Evolves v := by
  cases i with
  | putU16 | putI16 | putU32 | putF32 | putName16 | putU8 => exact State.Appends.evolves h
  | obufClear | frameBegin => exact State.Opens.evolves h
  | frameEnd =>
    obtain ⟨c, hc⟩ := h
    exact .trans (u := s.setCrc c) (.of_guarded_eq rfl) hc.evolves
  | buildCfg2 =>
    obtain ⟨c, hc⟩ := h
    exact .trans (u := s.setCrc c) (.of_guarded_eq rfl) hc.evolves
  | buildData =>
    obtain ⟨c, hc⟩ := h
    exact .trans (u := s.takeInputs.setCrc c) (.of_guarded_eq rfl) hc.evolves
  | crcInit | crcByte | crcObuf | getU16 =>
    obtain ⟨c, rfl⟩ := h
    exact .of_guarded_eq rfl
  | parseCmd =>
    obtain ⟨r, hr, rfl⟩ := h
    exact recordParse_evolves hr
  | frameCmd | frameData | frameCfg2 | cmdDisable | cmdEnable | cmdSendHdr | cmdSendCfg1 | cmdSendCfg2 | cmdOther =>
    exact h.elim

theorem exec_request_evolves {i : Instr} (hi : i.isRequest = true) {s t : State} (h : exec i s = .next t) :
    s.Evolves t := by
  obtain ⟨-, rfl⟩ | ⟨hs, v, f, e, hv, hf, rfl⟩ := exec_request_next hi h
  · exact .of_guarded_eq rfl
  · exact (requestLeaves_evolves hv).trans
      { State.Evolves.refl v with fault := .inr ⟨(requestLeaves_fault_eq hv).trans hs, hf⟩ }

/-! ### The host's moves -/

theorem loadIn_evolves {bs : List Byte} (hl : bs.length ≤ ibufCap) (s : State) : s.Evolves (loadIn bs s) where
  __ := State.Evolves.refl s
  inp := fun _ => by
    have o := loadIn_inIs bs s hl
    rw [o.ilen]
    exact o.holds
  status := fun _ => .inl rfl

theorem hostIbufLoad_evolves {bs : List Byte} {s t : State} (h : hostIbufLoad bs s = .next t) : s.Evolves t := by
  unfold hostIbufLoad at h
  split_ifs at h with hl
  cases h
  exact loadIn_evolves (by omega) s

theorem hostObufRead_evolves {s t : State} (h : hostObufRead s = .next t) : s.Evolves t := by
  unfold hostObufRead at h
  split at h
  · cases h
  · cases h
    exact .of_guarded_eq rfl

theorem ctrlMask_legal (v : Half) : v &&& ctrlMask ∈ ([0x0000, 0x0001] : List Half) := by
  rw [ctrlMask, show (0x0001 : Half) = 1#16 from rfl, BitVec.and_one_eq_setWidth_ofBool_getLsbD]
  cases v.getLsbD 0 <;> decide

theorem hostRegWrite_evolves {idx : BitVec 4} {v : Half} {s t : State} (h : hostRegWrite idx v s = .next t) :
    s.Evolves t := by
  unfold hostRegWrite at h
  cases h
  split_ifs
  · exact { State.Evolves.refl s with ctrl := .inr (ctrlMask_legal v) }
  · exact .refl s

theorem hostConnect_evolves {s t : State} (h : hostConnect s = .next t) : s.Evolves t := by
  unfold hostConnect at h
  cases h
  split_ifs <;> exact .of_guarded_eq rfl

/-- Sending what a request has built adds to what the request has done to the host's side only. -/
theorem sendThenStream_evolves {i : Instr} (hi : i.isRequest = true) {s t : State}
    (h : sendThenStream (exec i s) = .next t) : s.Evolves t := by
  obtain ⟨u, hu, ⟨-, rfl⟩ | ⟨-, f, -, rfl⟩⟩ := sendThenStream_next h
  · exact exec_request_evolves hi hu
  · exact (exec_request_evolves hi hu).trans (.of_guarded_eq rfl)

theorem applyClass_evolves {k : CmdClass} {s t : State} (h : applyClass k s = .next t) : s.Evolves t := by
  obtain ⟨-, e⟩ | ⟨-, -, e⟩ | ⟨-, -, e⟩ | ⟨-, -, e⟩ := applyClass_cases k s
  · cases e.symm.trans h
    exact .refl s
  · cases e.symm.trans h
    exact .of_guarded_eq rfl
  · cases e.symm.trans h
    exact .of_guarded_eq rfl
  · exact sendThenStream_evolves (i := .buildCfg2) rfl (e.symm.trans h)

theorem react_evolves {s t : State} (h : react s = .next t) : s.Evolves t := by
  unfold react at h
  split_ifs at h
  · exact applyClass_evolves h
  · cases h
    exact .refl s

theorem runReceive_evolves {bs : List Byte} {s t : State} (h : runReceive bs s = .next t) : s.Evolves t := by
  rw [runReceive_eq, receiveChunk] at h
  split_ifs at h with hl
  split at h
  · next u hu =>
    exact (loadIn_evolves (by omega) s).trans ((exec_request_evolves (i := .parseCmd) rfl hu).trans (react_evolves h))
  · next hn => exact absurd h (hn t)

theorem runAct_evolves {s t : State} (h : runAct s = .next t) : s.Evolves t := by
  rw [runAct, exec_decodeCommand] at h
  split_ifs at h
  · exact applyClass_evolves h
  · cases h
    exact .refl s

theorem schedule_evolves {s t : State} (h : schedule s = .next t) : s.Evolves t := by
  unfold schedule at h
  split at h
  · split_ifs at h
    · exact sendThenStream_evolves (i := .buildData) rfl h
    · cases h
      exact .refl s
  · cases h
    exact .refl s

theorem runTick_evolves {now : Nat} {rx : List Byte} {s t : State} (h : runTick now rx s = .next t) : s.Evolves t := by
  have hnow : s.Evolves (s.setNow now) := .of_guarded_eq rfl
  have hrx (u : State) (hu : (if rx = [] then .next (s.setNow now) else runReceive rx (s.setNow now)) = .next u) :
      s.Evolves u := by
    split_ifs at hu
    · cases hu
      exact hnow
    · exact hnow.trans (runReceive_evolves hu)
  unfold runTick at h
  split at h
  · cases h
    exact hnow
  · split at h
    · next u hu => exact (hrx u hu).trans (schedule_evolves h)
    · next hn => exact absurd h (hn t)

theorem runMove_evolves {m : HostMove} (hm : m.isReset = false) {s t : State} (h : runMove m s = .next t) :
    s.Evolves t := by
  cases m with
  | request w => exact exec_request_evolves (decodeRequest_isRequest w) h
  | ibufLoad bs => exact hostIbufLoad_evolves h
  | obufRead => exact hostObufRead_evolves h
  | regRead | present | presentDegrees | disconnect =>
    cases h
    exact .of_guarded_eq rfl
  | regWrite idx v => exact hostRegWrite_evolves h
  | reset c p => cases hm
  | connect => exact hostConnect_evolves h
  | receive bs => exact runReceive_evolves h
  | act => exact runAct_evolves h
  | tick now rx => exact runTick_evolves h

theorem step_evolves {s t : State} {m : HostMove} {rest : List HostMove} (hp : s.pending = m :: rest)
    (hm : m.isReset = false) (h : step s = .next t) : s.Evolves t := by
  rw [step_cons hp] at h
  exact .trans (u := s.setPending rest) (.of_guarded_eq rfl) (runMove_evolves hm h)

/-- Settles O8: FAULT changes from 0 only. -/
theorem faultStaysUntilReset : Obligations.FaultStaysUntilReset := by
  intro s t m rest hp hm hf h
  exact (step_evolves hp hm h).fault.resolve_right fun h0 => hf h0.1

/-- Settles O49: every move but a reset keeps both. -/
theorem configurationChangesAtResetOnly : Obligations.ConfigurationChangesAtResetOnly := by
  intro s t m rest hp hm h
  exact ⟨(step_evolves hp hm h).cfg, (step_evolves hp hm h).par⟩

end Sys2Proof.Machine
end

section
/-! The invariant: a reset establishes it from any state, and every other move keeps it. -/
namespace Sys2Proof.Machine

/-- What a request raises is legal, and is not CFG_ERR (R217, R222). -/
theorem requestFaults_legal {f : Half} (h : f ∈ requestFaults) : f ∈ legalFault ∧ f ≠ 0x0001 := by
  simp only [requestFaults, List.mem_cons, List.not_mem_nil, or_false] at h
  rcases h with rfl | rfl | rfl <;> decide

theorem State.Inv.evolves {s t : State} (hs : s.Inv) (h : s.Evolves t) : t.Inv := by
  obtain ⟨⟨hout, hin⟩, hctrl, hstatus, hfault, hcfgErr, hcfg, hpar⟩ := hs
  refine ⟨⟨h.out hout, h.inp hin⟩, ?_, ?_, ?_, ?_, by rwa [h.cfg], by rwa [h.par]⟩
  · obtain e | hlegal := h.ctrl
    · rwa [e]
    · exact hlegal
  · obtain e | hlegal := h.status hin
    · rwa [e]
    · exact hlegal
  · obtain e | ⟨-, hr⟩ := h.fault
    · rwa [e]
    · exact (requestFaults_legal hr).1
  · rw [h.cfg]
    obtain e | ⟨h0, hr⟩ := h.fault
    · rw [e]
      exact hcfgErr
    · exact iff_of_false (requestFaults_legal hr).2 fun hu => absurd (h0.symm.trans (hcfgErr.mpr hu)) (by decide)

theorem resetWith_inv {c : Station} {p : Params} (hc : c.admitted = true) (hp : p.admitted = true) :
    (State.resetWith c p).Inv := by
  have hctrl : (0x0001 : Half) ∈ ([0x0000, 0x0001] : List Half) := by decide
  have hstatus : 0x0000 ∈ legalStatus := by decide
  have hfault : faultAtRelease c ∈ legalFault ∧ (faultAtRelease c = 0x0001 ↔ c.supported = false) := by
    unfold faultAtRelease
    cases c.supported <;> decide
  exact ⟨⟨rfl, rfl⟩, hctrl, hstatus, hfault.1, hfault.2, hc, hp⟩

theorem hostReset_inv {c : Station} {p : Params} {s t : State} (h : hostReset c p s = .next t) : t.Inv := by
  unfold hostReset at h
  split_ifs at h with hadm
  obtain ⟨hc, hp⟩ := Bool.and_eq_true_iff.mp hadm
  cases h
  exact resetWith_inv hc hp

/-- Settles O50, the model's own choice of configuration and parameters being admitted. -/
theorem invariantHoldsAtReset : Obligations.InvariantHoldsAtReset :=
  ⟨fun _ _ => resetWith_inv, resetWith_inv (by decide) (by decide)⟩

theorem step_keeps_inv {s t : State} (hs : s.Inv) (h : step s = .next t) : t.Inv := by
  cases hp : s.pending with
  | nil =>
    rw [step, fetchAndRun, hp] at h
    cases h
    exact hs
  | cons m rest =>
    cases hm : m.isReset with
    | false => exact hs.evolves (step_evolves hp hm h)
    | true =>
      rw [step_cons hp] at h
      cases m with
      | reset c p => exact hostReset_inv h
      | _ => cases hm

/-- Settles O51: the canonical form of the memories is part of holding exactly the valid part. -/
theorem stepKeepsInvariant : Obligations.StepKeepsInvariant := by
  intro s t hs h
  have ht := step_keeps_inv hs h
  obtain ⟨hout, hin⟩ := ht.1
  exact ⟨ht, Memory.wf_of_holds hout, Memory.wf_of_holds hin⟩

end Sys2Proof.Machine
end

section
/-! BUILD_DATA on whatever inputs, and the host's access to the registers. -/
namespace Sys2Proof.Machine

/-- The status word stands behind the two time fields (R76, R77, R153). -/
theorem dataFields_statWord (s : State) :
    ∃ rest, (dataFields s).flatten = bytes32 s.soc ++ bytes32 s.usec ++ [0xC0, 0x00] ++ rest :=
  ⟨_, by simp only [dataFields, List.append_assoc, List.cons_append, List.nil_append, List.flatten_cons]; rfl⟩

/-- Settles O25: the frame's length and its bytes 14 and 15 do not depend on what the time and the sample are. -/
theorem buildDataRunsOnAnyInputs : Obligations.BuildDataRunsOnAnyInputs := by
  intro s hf hc
  obtain ⟨c, m, n, e, o⟩ := execBuildData_ready hf hc
  obtain ⟨rest, hrest⟩ := dataFields_statWord s
  have holen : n.toNat = 26 + 8 * s.cfg.phName.length + 4 * s.cfg.anName.length := by
    have := o.olen
    rw [frameOf_length, dataFields_length] at this
    simp only [State.setOut_olen] at this
    omega
  have hread (a : Nat) := o.read a
  rw [hrest] at hread
  exact ⟨_, e, rfl, holen, hread 14, hread 15⟩

theorem readRegister_eq (s : State) (idx : BitVec 4) :
    readRegister s idx = (if idx = 0 then s.ctrl &&& 0x0001 else if idx = 1 then s.status &&& 0x001F
      else if idx = 2 then s.fault &&& 0x0007 else if idx = 3 then s.crc else if idx = 4 then s.cmd
      else if idx = 5 then s.rdata else if idx = 6 then s.olen else if idx = 7 then s.ilen else 0) := by
  obtain ⟨⟨k, hk⟩⟩ := idx
  interval_cases k <;> rfl

/-- Settles O33. A write of CTRL is the model's own text; a read is the table of R35. -/
theorem registerAccessFollowsIndexTable : Obligations.RegisterAccessFollowsIndexTable :=
  fun s idx _ => ⟨rfl, readRegister s idx, rfl, readRegister_eq s idx⟩

end Sys2Proof.Machine
end

section
/-! The host's access to the two buffers (R57, R58), a repeated parse (R55), and one step (R60). -/
namespace Sys2Proof.Machine

/-! ### IBUF_LOAD -/

/-- Settles O34: the loaded bytes are known bytes, which every read gives. -/
theorem ibufLoadReplacesInput : Obligations.IbufLoadReplacesInput := by
  refine fun bs s => ⟨fun hl => ?_, fun hl => if_pos hl⟩
  have hin := loadIn_inIs bs s hl
  exact ⟨loadIn bs s, if_neg (Nat.not_lt.mpr hl), hin.ilen, hin.read, rfl⟩

/-! ### OBUF_READ -/

/-- OBUF_READ of known bytes gives them to the host, and changes nothing else (R58). -/
theorem hostObufRead_outIs {s : State} {xs : List Byte} (h : s.OutIs xs) :
    hostObufRead s = .next (s.setHostBytes xs) := by
  rw [hostObufRead, h.obufBytes]

/-- An operation that has ended done has run its body to the end. -/
theorem operation_done {body : State → Ended} {s t : State} (h : operation body s = .next t)
    (hd : t.outcome = some .done) : ∃ u, body s = .going u ∧ t = u.setOutcome (some .done) := by
  obtain ⟨-, rfl⟩ | ⟨-, hgoing⟩ | ⟨-, c, u, -, rfl⟩ := operation_next h
  · cases hd
  · exact hgoing
  · cases hd

/-- Two parts are going on only if the first was, and the second from where the first ended. -/
theorem Ended.andThen_going {r : Ended} {k : State → Ended} {u : State} (h : r.andThen k = .going u) :
    ∃ v, r = .going v ∧ k v = .going u := by
  cases r with
  | going v => exact ⟨v, rfl, h⟩
  | raised | stopped => cases h

/-- Any two bytes, the size of the whole, whatever follows, and the CRC of all of it are a whole frame (R145, R160). -/
theorem closedFrame_whole (b0 b1 : Byte) (rest : List Byte) (hl : rest.length + 6 ≤ 65535) :
    let covered := [b0, b1] ++ bytes16 (BitVec.ofNat 16 (rest.length + 6)) ++ rest
    wholeFrame (covered ++ bytes16 (crc16 covered)) := by
  intro covered
  refine ⟨b0, b1, _, _, rest, _, _, rfl, ?_, (be16_bytes16 (crc16 covered)).symm⟩
  rw [be16_bytes16, BitVec.toNat_ofNat]
  simp only [covered, List.length_append, bytes16_length, List.length_cons, List.length_nil]
  omega

/-- `Finalize` that comes to its end leaves a whole frame, whatever bytes it closes (R145, R160). -/
theorem finalize_going_whole {s u : State} (hb : s.obuf.holds s.olen.toNat) (h : finalize s = .going u) :
    ∃ f, u.OutIs f ∧ wholeFrame f := by
  by_cases h4 : s.olen.toNat < 4
  · rw [finalize_short h4] at h
    cases h
  by_cases hlong : 65535 < s.olen.toNat + 2
  · rw [finalize_long hlong] at h
    cases h
  obtain ⟨xs, hxs⟩ := State.OutIs.of_holds hb
  have holen := hxs.olen
  match xs with
  | b0 :: b1 :: x :: y :: rest =>
    simp only [List.length_cons] at holen
    have hl : rest.length + 6 ≤ 65535 := by omega
    obtain ⟨m, n, e, o⟩ := finalize_outIs (rest := rest) hxs hl
    cases e.symm.trans h
    exact ⟨_, ⟨o.olen, o.holds, o.bytes⟩, closedFrame_whole b0 b1 rest hl⟩
  | [] | [_] | [_, _] | [_, _, _] =>
    simp only [List.length_cons, List.length_nil] at holen
    omega

/-- A header, fields and Finalize that come to their end leave a whole frame, whatever OBUF held before: the header opens it afresh
(R142, R160). -/
theorem buildFrame_going_whole {y : Byte} {fs : List (List Byte)} {s u : State}
    (h : ((frameBegin y s).andThen (appendAll fs)).andThen finalize = .going u) : ∃ f, u.OutIs f ∧ wholeFrame f := by
  obtain ⟨w, hw, hfin⟩ := Ended.andThen_going h
  obtain ⟨v, hv, happ⟩ := Ended.andThen_going hw
  have hopen := frameBegin_reaches y s
  rw [hv] at hopen
  have happends := appendAll_reaches fs v
  rw [happ] at happends
  obtain ⟨m, n, rfl, hm⟩ := State.Opens.appends hopen happends
  exact finalize_going_whole hm hfin

/-- FRAME_END and the two builders, ended done, leave a whole frame (R160). -/
theorem closing_done_whole {i : Instr} (hi : i = .frameEnd ∨ i = .buildCfg2 ∨ i = .buildData) {s t : State}
    (hb : s.obuf.holds s.olen.toNat) (h : exec i s = .next t) (hd : t.outcome = some .done) :
    ∃ f, t.OutIs f ∧ wholeFrame f := by
  have closes {body : State → Ended} (hx : exec i s = operation body s)
      (hwhole : ∀ u, body s = .going u → ∃ f, u.OutIs f ∧ wholeFrame f) : ∃ f, t.OutIs f ∧ wholeFrame f := by
    obtain ⟨u, hu, rfl⟩ := operation_done (hx.symm.trans h) hd
    obtain ⟨f, o, hf⟩ := hwhole u hu
    exact ⟨f, ⟨o.olen, o.holds, o.bytes⟩, hf⟩
  obtain rfl | rfl | rfl := hi
  · exact closes rfl fun _ => finalize_going_whole hb
  · exact closes (body := buildCfg2) rfl fun _ => buildFrame_going_whole
  · exact closes (body := buildData) rfl fun _ => buildFrame_going_whole

/-- Settles O35: OBUF holds known bytes before, and a whole frame after a closing operation has ended done. -/
theorem obufReadReturnsValidPart : Obligations.ObufReadReturnsValidPart := by
  rintro s ⟨hb, -⟩
  refine ⟨?_, fun i t hi h hd => ?_⟩
  · obtain ⟨bs, o⟩ := State.OutIs.of_holds hb
    exact ⟨bs, o.olen.symm, o.read, hostObufRead_outIs o⟩
  · obtain ⟨f, o, hf⟩ := closing_done_whole hi hb h hd
    exact ⟨f, hostObufRead_outIs o, hf⟩

/-! ### PARSE_CMD, repeated -/

/-- A choice whose branches keep the answer `r` keeps it. -/
theorem ite_eq_some_imp {α : Type} {c : Prop} [Decidable c] {a a' b b' : Option α} {r : α}
    (ha : a = some r → a' = some r) (hb : b = some r → b' = some r) :
    (if c then a else b) = some r → (if c then a' else b') = some r := by
  split_ifs
  · exact ha
  · exact hb

/-- A read whose continuations keep the answer `r` keeps it. -/
theorem bind_eq_some_imp {α β : Type} {o : Option α} {f g : α → Option β} {r : β}
    (hfg : ∀ x, f x = some r → g x = some r) : (o >>= f) = some r → (o >>= g) = some r := by
  cases o with
  | none => exact nofun
  | some x => exact hfg x

/-- Checks 4 and 5 again, after their result is recorded: the same result. Of what is recorded they use only CMD, and a result that keeps
the old CMD is the same over the kept one. -/
theorem parseBody_recordParse {s : State} {n : Nat} {r : Parsed} (h : parseBody s n = some r) :
    parseBody (recordParse r s) n = some r := by
  unfold parseBody at h ⊢
  refine bind_eq_some_imp (fun _ => bind_eq_some_imp fun _ => ite_eq_some_imp ?mismatch
    (bind_eq_some_imp fun _ => ite_eq_some_imp ?foreign id)) h
  all_goals
    rintro ⟨⟩
    rfl

/-- The whole parse again, after its result is recorded: the same result. Before check 4 it keeps CRC and CMD. -/
theorem parse_recordParse {s : State} {r : Parsed} (h : parse s = some r) : parse (recordParse r s) = some r := by
  unfold parse at h ⊢
  refine ite_eq_some_imp ?tooShort (bind_eq_some_imp fun _ => bind_eq_some_imp fun _ => ite_eq_some_imp ?badHeader
    (bind_eq_some_imp fun _ => ite_eq_some_imp ?badLength parseBody_recordParse)) h
  all_goals
    rintro ⟨⟩
    rfl

/-- Settles O32: the second parse has the result of the first, and records it over itself. -/
theorem parseIsRepeatable : Obligations.ParseIsRepeatable := by
  intro s t hf h
  obtain ⟨hf', -⟩ | ⟨-, r, hr, rfl⟩ := execParseCmd_next h
  · exact absurd hf hf'
  · show execParseCmd (recordParse r s) = _
    rw [execParseCmd, if_neg (fun hne => hne hf), parse_recordParse hr]
    rfl

/-! ### One step -/

/-- The host acts on CMD exactly when FAULT is 0, PVALID is 1 and PERR is 0 (R22, R31). -/
theorem mayAct_iff (s : State) :
    mayAct s = true ↔ s.fault = 0 ∧ s.status.getLsbD 3 = true ∧ s.status &&& 0x0007 = 0 := by
  simp only [mayAct, Bool.and_eq_true, beq_iff_eq, and_assoc]
  rfl

/-- Settles O1: each kind of move is the decoder's reading of it, run. -/
theorem stepRunsDecodedInstruction : Obligations.StepRunsDecodedInstruction := by
  refine ⟨fun s w rest hp => step_cons hp, fun s bs rest i hp hi => ?_, fun s rest hp => ?_, fun s hp => ?_⟩
  · rw [step_cons hp, runMove, runReceive, State.setPending_par, hi]
  · rw [step_cons hp, runMove, runAct]
    exact if_congr (mayAct_iff s) rfl rfl
  · rw [step, fetchAndRun, hp]

end Sys2Proof.Machine
end

section
/-! The decoders read what the encoder writes, and the encoder writes what they read (R70 to R72, R81, R82, R86): a pair of laws for
each of the three formats. -/
namespace Sys2Proof

/-! ### Requests -/

/-- A request is read back, with its operand at every value (R70, R71). -/
theorem decode_encode_request (p : Params) {i : Instr} (hi : i.isRequest = true) : decode p (encode p i) = .ok i := by
  cases i with
  | obufClear | crcInit | crcObuf | frameEnd | buildCfg2 | buildData | parseCmd => rfl
  | putU16 v | putI16 v | putName16 v | getU16 v =>
    simp [decode, encode, mkRequest, decodeRequest, reqOp_append, reqImm16_append, immOfHalf_low]
  | putU32 v | putF32 v => simp [decode, encode, mkRequest, decodeRequest, reqOp_append, reqImm_append]
  | crcByte b | frameBegin b | putU8 b =>
    simp [decode, encode, mkRequest, decodeRequest, reqOp_append, reqImm8_append, immOfByte_low]
  | frameCmd | frameData | frameCfg2 | cmdDisable | cmdEnable | cmdSendHdr | cmdSendCfg1 | cmdSendCfg2 | cmdOther =>
    cases hi

theorem Instr.wellFormed_of_isRequest (p : Params) {i : Instr} (hi : i.isRequest = true) : i.wellFormed p = true := by
  cases i with
  | frameCmd | frameData | frameCfg2 | cmdDisable | cmdEnable | cmdSendHdr | cmdSendCfg1 | cmdSendCfg2 | cmdOther =>
    cases hi
  | _ => rfl

/-! ### Received frames -/

/-- The type byte of a command frame is no other one's, and the one of a configuration frame is not that of a data frame (R7). -/
theorem Params.admitted_types {p : Params} (h : p.admitted = true) :
    p.typeData ≠ p.typeCmd ∧ p.typeCfg2 ≠ p.typeCmd ∧ p.typeCfg2 ≠ p.typeData := by
  simp only [Params.admitted, Params.typesDiffer, Bool.and_eq_true, bne_iff_ne] at h
  obtain ⟨⟨⟨hdc, hdm⟩, hcm⟩, -⟩ := h
  exact ⟨hdm, hcm, hdc.symm⟩

/-- A chunk that fits IBUF and opens with P_SYNC is told by its type byte, the three kinds tried in order (R81). -/
theorem decodeFrame_sync (p : Params) (t : Byte) {body : List Byte} (h : bodyFits body = true) :
    decodeFrame p (p.sync :: t :: body) =
      if t = p.typeCmd then .ok (.frameCmd body)
      else if t = p.typeData then .ok (.frameData body)
      else if t = p.typeCfg2 then .ok (.frameCfg2 body)
      else .error .noFrameKind := by
  simp [decodeFrame, h]

/-- A chunk that decodes is well formed, and is the encoding of what it decodes to (R57, R81). -/
theorem decodeFrame_ok {p : Params} {bs : List Byte} {i : Instr} (h : decodeFrame p bs = .ok i) :
    i.wellFormed p = true ∧ encode p i = .frame bs := by
  match bs with
  | [] | [_] => cases h
  | b0 :: b1 :: body =>
    simp only [decodeFrame] at h
    split_ifs at h with hfit hsync hcmd hdata hcfg2
    all_goals
      cases h
      rw [Bool.not_eq_false] at hfit
      rw [not_not] at hsync
    · exact ⟨hfit, by rw [encode, hsync, hcmd]⟩
    · exact ⟨hfit, by rw [encode, hsync, hdata]⟩
    · exact ⟨hfit, by rw [encode, hsync, hcfg2]⟩

/-! ### Command codes -/

/-- No code of admitted parameters is an earlier one (R7). -/
theorem Params.admitted_codes {p : Params} (h : p.admitted = true) : p.codes.Pairwise (fun a b => b ≠ a) := by
  simp only [Params.admitted, Bool.and_eq_true] at h
  exact (of_decide_eq_true h.2).imp Ne.symm

/-- The catch-all row takes exactly the codes no other row matches (R86). -/
theorem decodeCommand_wellFormed (p : Params) (code : Half) : (decodeCommand p code).wellFormed p = true := by
  unfold decodeCommand
  split_ifs with h1 h2 h3 h4 h5
  case neg => simp [Instr.wellFormed, Params.codes, h1, h2, h3, h4, h5]
  all_goals rfl

/-- A command code is the encoding of what it decodes to (R82). -/
theorem encode_decodeCommand (p : Params) (code : Half) : encode p (decodeCommand p code) = .command code := by
  unfold decodeCommand
  split_ifs with h1 h2 h3 h4 h5
  · rw [h1, encode]
  · rw [h2, encode]
  · rw [h3, encode]
  · rw [h4, encode]
  · rw [h5, encode]
  · rw [encode]

/-! ### The three formats together -/

/-- Settles O3. A request needs no hypothesis. A frame kind and a command code are found where they stand in the order in which the
decoder tries them, since the parameters differ; and the catch-all row holds no code of another row. -/
theorem decodeOfEncodeIsIdentity : Obligations.DecodeOfEncodeIsIdentity := by
  intro p i hp hi
  obtain ⟨hdata, hcfg2, hcfg2'⟩ := Params.admitted_types hp
  have hcodes := Params.admitted_codes hp
  simp only [Params.codes, List.pairwise_cons, List.forall_mem_cons] at hcodes
  cases i with
  | frameCmd body => exact (decodeFrame_sync p p.typeCmd hi).trans (if_pos rfl)
  | frameData body =>
    refine (decodeFrame_sync p p.typeData hi).trans ?_
    rw [if_neg hdata, if_pos rfl]
  | frameCfg2 body =>
    refine (decodeFrame_sync p p.typeCfg2 hi).trans ?_
    rw [if_neg hcfg2, if_neg hcfg2', if_pos rfl]
  | cmdDisable | cmdEnable | cmdSendHdr | cmdSendCfg1 | cmdSendCfg2 => simp [decode, encode, decodeCommand, hcodes]
  | cmdOther code =>
    have hnone : code ∉ p.codes := of_decide_eq_true hi
    simp only [Params.codes, List.mem_cons, List.not_mem_nil, or_false, not_or] at hnone
    simp [decode, encode, decodeCommand, hnone]
  | _ => exact decode_encode_request p rfl

/-- Settles O4: a chunk or a code that decodes is the encoding itself; a request is read back up to its unused bits. -/
theorem decodedInstructionsReadBack : Obligations.DecodedInstructionsReadBack := by
  intro p e i h
  cases e with
  | req w =>
    cases h
    have hw := Machine.decodeRequest_isRequest w
    exact ⟨Instr.wellFormed_of_isRequest p hw, decode_encode_request p hw, by simp⟩
  | frame bs =>
    obtain ⟨hwf, henc⟩ := decodeFrame_ok h
    exact ⟨hwf, henc ▸ h, fun _ => henc⟩
  | command code =>
    have henc := encode_decodeCommand p code
    cases h
    exact ⟨decodeCommand_wellFormed p code, by rw [henc, decode], fun _ => henc⟩

/-- Settles O2: the words are evaluated. -/
theorem specWordsDecode : Obligations.SpecWordsDecode :=
  ⟨rfl, rfl, rfl, rfl, rfl, rfl, rfl, rfl, rfl⟩

/-- Settles O5: for each select, the decoder reads the bits of imm it names and no other. -/
theorem unusedImmediateBitsIgnored : Obligations.UnusedImmediateBitsIgnored := by
  refine fun op imm imm' => ⟨fun hop => ?_, fun hop himm => ?_, fun hop himm => ?_⟩
  all_goals simp only [List.mem_cons, List.not_mem_nil, or_false] at hop
  · rcases hop with rfl | rfl | rfl | rfl | rfl | rfl | rfl <;> simp [decodeRequest, reqOp_append]
  · rcases hop with rfl | rfl | rfl | rfl <;> simp [decodeRequest, reqOp_append, reqImm16_append, himm]
  · rcases hop with rfl | rfl | rfl <;> simp [decodeRequest, reqOp_append, reqImm8_append, himm]

end Sys2Proof
end

section
/-! What becomes of a received chunk: the bytes past its declared size (R175), a command frame for this PMU (R205), and the frame kinds that
are no command (R174). -/
namespace Sys2Proof.Machine

/-! ### Loaded and parsed -/

/-- PARSE_CMD of known bytes records the row of the table of R182 that they match (R172). -/
theorem execParseCmd_inIs {s : State} {bs : List Byte} (hf : s.fault = 0) (h : s.InIs bs) :
    execParseCmd s = .next (recordParse (parseTable s.par s.cfg.pmuId (s.ctrl.getLsbD 0) s.crc s.cmd bs) s) := by
  rw [execParseCmd, if_neg (not_not.mpr hf), parse_inIs h]

/-- The host's load and a PARSE_CMD, one after the other (R57, R172). -/
theorem execFrom_parseCmd_ibufLoad {bs : List Byte} {s : State} (hl : bs.length ≤ 65535) (hf : s.fault = 0) :
    execFrom [.parseCmd] (runMove (.ibufLoad bs) s) = .next
      (recordParse (parseTable s.par s.cfg.pmuId (s.ctrl.getLsbD 0) s.crc s.cmd bs) (loadIn bs s)) := by
  have hload : runMove (.ibufLoad bs) s = .next (loadIn bs s) := if_neg (Nat.not_lt.mpr hl)
  rw [hload]
  exact execParseCmd_inIs (s := loadIn bs s) hf (loadIn_inIs bs s hl)

/-- The table of R182 reads no byte at or beyond the declared size, once the header and that size are there (R175). -/
theorem parseTable_append (p : Params) (own : Half) (enforce : Bool) (crc cmd : Half) {bs : List Byte} (after : List Byte)
    (h10 : 10 ≤ bs.length) (hsize : (fieldAt bs 2).toNat ≤ bs.length) :
    parseTable p own enforce crc cmd (bs ++ after) = parseTable p own enforce crc cmd bs := by
  have hshort : ¬ (bs ++ after).length < 10 := by
    rw [List.length_append]
    omega
  have hlong : ¬ (bs ++ after).length < (fieldAt bs 2).toNat := by
    rw [List.length_append]
    omega
  simp only [parseTable, fieldAt_append bs after 2 (by omega), fieldAt_append bs after 4 (by omega),
    fieldAt_append bs after 6 (by omega), fieldAt_append bs after ((fieldAt bs 2).toNat - 2) (by omega),
    List.getD_append bs after 0 0 (by omega), List.getD_append bs after 0 1 (by omega),
    List.take_append_of_le_length (l₂ := after) (show (fieldAt bs 2).toNat - 2 ≤ bs.length by omega),
    hshort, hlong, Nat.not_lt.mpr h10, Nat.not_lt.mpr hsize]

/-- Settles O30: the two parses have the same result, recorded over states that differ in IBUF and ILEN only. -/
theorem bytesBeyondSizeIgnored : Obligations.BytesBeyondSizeIgnored := by
  intro s bs after hf hl h10 hsize
  refine ⟨_, _, execFrom_parseCmd_ibufLoad (by rw [List.length_append]; exact hl) hf,
    execFrom_parseCmd_ibufLoad (by omega) hf, ?_⟩
  rw [parseTable_append _ _ _ _ _ after h10 hsize]
  rfl

/-! ### An accepted command frame -/

theorem applyClass_disable {s : State} (h : s.session ≠ none) :
    applyClass .disable s = .next (s.setSession (some .idle)) := by
  obtain ⟨x, hx⟩ := Option.ne_none_iff_exists'.mp h
  simp only [applyClass, hx]

theorem applyClass_enable {s : State} (h : s.session ≠ none) :
    applyClass .enable s = .next (s.setSession (some (.streaming s.now))) := by
  obtain ⟨x, hx⟩ := Option.ne_none_iff_exists'.mp h
  simp only [applyClass, hx]

/-- A chunk of a command frame for this PMU, or for all, is loaded, accepted, and acted on by the class of its code (R74, R194, R205). -/
theorem receiveChunk_command {s : State} {id code : Half} {extra bs : List Byte} (hf : s.fault = 0)
    (hid : id = s.cfg.pmuId ∨ id = 0xFFFF) (hl : extra.length + 10 ≤ 65535)
    (hbs : bs = frameOf s.par.sync s.par.typeCmd id (bytes16 code ++ extra)) :
    ∃ m n, receiveChunk bs s = applyClass (classify s.par code)
        (recordParse ⟨none, crc16 (bs.take (extra.length + 8)), code, false⟩ (s.setIn m n))
      ∧ ∀ a, m.read a = bs[a]? := by
  have hfit : bs.length ≤ 65535 := by
    simp only [hbs, frameOf_length, List.length_append, bytes16_length]
    omega
  have htable := parseTable_command s.par s.cfg.pmuId id code (s.ctrl.getLsbD 0) s.crc s.cmd extra [] hid hl
  rw [List.append_nil, ← hbs] at htable
  refine ⟨(loadIn bs s).ibuf, (loadIn bs s).ilen, ?_, (loadIn_inIs bs s hfit).read⟩
  rw [receiveChunk_ready hfit hf, htable]
  rfl

/-- Settles O39: a case for each class of the code. -/
theorem acceptedFrameMovesSession : Obligations.AcceptedFrameMovesSession := by
  intro s id code extra body hf hs hc hid hl hbody
  obtain ⟨m, n, hexec, hread⟩ := receiveChunk_command hf hid hl hbody
  have hstatus : parseStatus none false = 0x0008 := by decide
  show ∃ t, receiveChunk (s.par.sync :: s.par.typeCmd :: body) s = .next t ∧ _
  rw [hexec, classify]
  generalize crc16 _ = c -- no equality below may evaluate the CRC
  split_ifs
  · exact ⟨_, applyClass_disable hs, rfl, hstatus, hread, ⟨rfl, rfl, rfl, rfl, rfl⟩, rfl⟩
  · exact ⟨_, applyClass_enable hs, rfl, hstatus, hread, ⟨rfl, rfl, rfl, rfl, rfl⟩, rfl⟩
  · obtain ⟨c', m', n', h, -⟩ := applyClass_sendCfg (s := recordParse ⟨none, c, code, false⟩ (s.setIn m n)) hs hf hc
    exact ⟨_, h, rfl, hstatus, hread, ⟨rfl, rfl, rfl⟩, rfl⟩

/-! ### A frame kind that is no command -/

/-- A chunk of at least ten bytes that does not open as a command frame is BadHeader, and CRC and CMD stay (R174). -/
theorem parseTable_badHeader {p : Params} {own : Half} {enforce : Bool} {crc cmd : Half} {bs : List Byte} (h10 : 10 ≤ bs.length)
    (h : bs.getD 0 0 ≠ p.sync ∨ bs.getD 1 0 ≠ p.typeCmd) :
    parseTable p own enforce crc cmd bs = ⟨some .badHeader, crc, cmd, false⟩ := by
  simp only [parseTable]
  rw [if_neg (Nat.not_lt.mpr h10), if_pos h]

/-- A chunk of another type than a command is loaded, marked BadHeader, and acted on in no way (R81, R174, R196). -/
theorem receiveChunk_foreign {s : State} {y : Byte} {body : List Byte} (hf : s.fault = 0) (hy : y ≠ s.par.typeCmd)
    (h8 : 8 ≤ body.length) (hl : body.length + 2 ≤ 65535) :
    ∃ t, receiveChunk (s.par.sync :: y :: body) s = .next t ∧ t.status = 0x000A
      ∧ (∀ a, t.ibuf.read a = (s.par.sync :: y :: body)[a]?)
      ∧ t = { s with ibuf := t.ibuf, ilen := t.ilen, status := 0x000A, outcome := some (.error .badHeader) } := by
  have hbad := parseTable_badHeader (p := s.par) (own := s.cfg.pmuId) (enforce := s.ctrl.getLsbD 0) (crc := s.crc) (cmd := s.cmd)
    (bs := s.par.sync :: y :: body) (by simpa using h8) (.inr hy)
  have hstatus : parseStatus (some .badHeader) false = 0x000A := by decide
  have hfit : (s.par.sync :: y :: body).length ≤ 65535 := hl
  rw [receiveChunk_ready hfit hf, hbad]
  exact ⟨_, rfl, hstatus, (loadIn_inIs _ s hfit).read, by rw [← hstatus]; rfl⟩

/-- Settles O40: neither type byte is the one of a command frame. -/
theorem foreignFrameKindsAreBadHeader : Obligations.ForeignFrameKindsAreBadHeader := by
  intro s body hf hp h8 hl
  obtain ⟨hdata, hcfg2, -⟩ := Params.admitted_types hp
  exact ⟨receiveChunk_foreign hf hdata h8 hl, receiveChunk_foreign hf hcfg2 h8 hl⟩

end Sys2Proof.Machine
end

section
/-! The Byte Codec operations (R100 to R110): how an append, a name and a 16-bit read end, from the fault-free state on. -/
namespace Sys2Proof.Machine

/-! ### How an operation on the buffers ends -/

/-- Outside the fault state, a raised fault sets its bit of FAULT, and nothing else of the block changes (R101, R219, R220). -/
theorem operation_raised {body : State → Ended} {c : FaultCause} {s : State} (hf : s.fault = 0)
    (h : body s = .raised c (raiseFault c s)) :
    operation body s = .next { s with fault := faultBit c, outcome := some (.fault c) } := by
  rw [operation_ready hf, h, raiseFault_first hf]
  rfl

/-- Outside the fault state, an append that fits: OLEN grows by the number of bytes, which stand from the old OLEN on; every other
byte of OBUF, and everything else, is as before (R100). -/
theorem operation_append_fits {body : State → Ended} {bs : List Byte} {s : State} (hf : s.fault = 0) (h : body s = append bs s)
    (hl : s.olen.toNat + bs.length ≤ 65535) :
    ∃ t, operation body s = .next t ∧ t.olen.toNat = s.olen.toNat + bs.length
      ∧ (∀ a, t.obuf.read a =
          if s.olen.toNat ≤ a ∧ a < s.olen.toNat + bs.length then bs[a - s.olen.toNat]? else s.obuf.read a)
      ∧ t = { s with obuf := t.obuf, olen := t.olen, outcome := some .done } := by
  have holen : (BitVec.ofNat 16 (s.olen.toNat + bs.length)).toNat = s.olen.toNat + bs.length := by
    rw [BitVec.toNat_ofNat]
    omega
  rw [operation_ready hf, h, append_fits hl]
  exact ⟨_, rfl, holen, Memory.read_writeBytes s.obuf s.olen.toNat bs, rfl⟩

/-- Outside the fault state, an append that does not fit (R101). -/
theorem operation_append_overflows {body : State → Ended} {bs : List Byte} {s : State} (hf : s.fault = 0)
    (h : body s = append bs s) (hl : 65535 < s.olen.toNat + bs.length) :
    operation body s = .next { s with fault := 0x0002, outcome := some (.fault .ovf) } :=
  operation_raised hf (h.trans (append_overflows hl))

/-- An instruction that is one append of fixed bytes (R103 to R105, R107, R109). -/
theorem exec_append {i : Instr} {bs : List Byte} (h : exec i = operation (append bs)) :
    appendsBytes i bs ∧ overflowsPast i bs.length := by
  rw [appendsBytes, overflowsPast, h]
  exact ⟨fun s hf hl => operation_append_fits hf rfl hl, fun s hf hl => operation_append_overflows hf rfl hl⟩

/-! ### OBUF_CLEAR and the numeric appends -/

/-- Settles O9: the emptied buffer has no byte to read. -/
theorem obufClearEmptiesOutput : Obligations.ObufClearEmptiesOutput := by
  refine ⟨fun imm => by simp [decodeRequest, reqOp_append], fun s hf => ?_⟩
  have hclear := operation_ready (body := fun u => .going (clearOut u)) hf
  exact ⟨_, hclear, rfl, fun _ => rfl, rfl⟩

/-- Settles O10: each of the five is one append of the bytes of its operand. -/
theorem putAppendsBigEndian : Obligations.PutAppendsBigEndian := by
  refine ⟨fun imm => ?_, fun v => ?_, fun imm => ?_⟩
  · obtain ⟨hu, hu'⟩ := exec_append (i := .putU16 (imm.extractLsb' 0 16)) rfl
    obtain ⟨hi, hi'⟩ := exec_append (i := .putI16 (imm.extractLsb' 0 16)) rfl
    exact ⟨_, rfl, by simp [decodeRequest, reqOp_append, reqImm16_append],
      by simp [decodeRequest, reqOp_append, reqImm16_append], hu, hu', hi, hi'⟩
  · obtain ⟨hu, hu'⟩ := exec_append (i := .putU32 v) rfl
    obtain ⟨hf, hf'⟩ := exec_append (i := .putF32 v) rfl
    exact ⟨by simp [decodeRequest, reqOp_append, reqImm_append], by simp [decodeRequest, reqOp_append, reqImm_append],
      hu, hu', hf, hf'⟩
  · obtain ⟨hu, hu'⟩ := exec_append (i := .putU8 (imm.extractLsb' 0 8)) rfl
    exact ⟨_, rfl, by simp [decodeRequest, reqOp_append, reqImm8_append], hu, hu'⟩

/-! ### PUT_NAME16 -/

/-- The name field of a name of 16 bytes or more (R106). -/
theorem name16_long {s : List Byte} (h : 16 ≤ s.length) : name16 s = s.take 16 := by
  rw [name16, List.take_append_of_le_length h]

/-- The name field of a shorter name (R106). -/
theorem name16_short {s : List Byte} (h : s.length < 16) : name16 s = s ++ List.replicate (16 - s.length) 0x20 := by
  refine List.take_of_length_le ?_
  rw [List.length_append, List.length_replicate]
  omega

/-- Settles O13: a long name is cut and needs no padding, a short one is padded and not cut. -/
theorem nameFieldPadsAndCuts : Obligations.NameFieldPadsAndCuts :=
  fun s => ⟨name16_length s, name16_long, name16_short⟩

/-- The name an index selects (R108). -/
theorem selectName_eq_some_iff (c : Station) (k : Nat) (name : List Byte) :
    selectName c k = some name ↔
      if k = 0 then name = c.stn
      else if k ≤ c.phName.length then c.phName[k - 1]? = some name
      else c.anName[k - c.phName.length - 1]? = some name := by
  rw [selectName, Station.nph]
  split_ifs
  · rw [Option.some_inj, eq_comm]
  · rfl
  · rfl

/-- Settles O14: an index past the last raises RNG before OLEN is looked at; any other is an append of the selected name's field. -/
theorem putNameAppendsSelected : Obligations.PutNameAppendsSelected := by
  refine ⟨fun imm => by simp [decodeRequest, reqOp_append, reqImm16_append], fun k s hf => ⟨fun hk => ?_, fun hk => ?_⟩⟩
  · exact operation_raised hf (putName_past hk)
  · obtain ⟨name, hname, hput⟩ := putName_within hk
    have hlen := name16_length name
    refine ⟨fun hl => operation_append_overflows hf hput (by rwa [hlen]), fun hl => ?_⟩
    obtain ⟨t, ht⟩ := operation_append_fits hf hput (by rwa [hlen])
    rw [hlen] at ht
    exact ⟨name, t, (selectName_eq_some_iff ..).mp hname, ht⟩

/-! ### GET_U16 -/

/-- Settles O15: the two bytes are there exactly where the offset is in range. -/
theorem getHalfReadsInput : Obligations.GetHalfReadsInput := by
  refine ⟨fun imm => by simp [decodeRequest, reqOp_append, reqImm16_append], fun k s hf hbuf hk => ?_, fun k s hf hk => ?_⟩
  · obtain ⟨-, hin⟩ := hbuf
    obtain ⟨b0, b1, h0, h1, hget⟩ := getHalf_within hin hk
    have hdone := operation_ready (body := getHalf k) hf
    rw [hget] at hdone
    exact ⟨b0, b1, h0, h1, hdone⟩
  · exact operation_raised hf (getHalf_past hk)

end Sys2Proof.Machine
end

section
/-! The CRC Engine operations (R120 to R124) and the residue of a CRC over itself (R126 (d)). -/
namespace Sys2Proof.Machine

/-! ### The reduction steps -/

/-- The bits of two bytes joined (R11). -/
theorem getLsbD_be16 (b0 b1 : Byte) (i : Nat) :
    (be16 b0 b1).getLsbD i = if i < 8 then b1.getLsbD i else b0.getLsbD (i - 8) :=
  BitVec.getLsbD_append

/-- A byte at the top half of the register (R121). -/
theorem setWidth_shiftLeft_eq_be16 (b : Byte) : (b.setWidth 16) <<< 8 = be16 b 0 := by
  refine BitVec.eq_of_getLsbD_eq fun i hi => ?_
  rw [getLsbD_be16, BitVec.getLsbD_shiftLeft, BitVec.getLsbD_setWidth]
  by_cases h : i < 8
  · simp [h]
  · simp [h, hi, (by omega : i - 8 < 16)]

/-- One reduction step, the test read as the sign bit (R122). -/
theorem crcBit_eq (r : Half) : crcBit r = if r.msb then (r <<< 1) ^^^ 0x1021 else r <<< 1 := rfl

/-- Reduction steps are one step, repeated. -/
theorem crcBits_eq_iterate (n : Nat) (r : Half) : crcBits n r = crcBit^[n] r := by
  induction n generalizing r with
  | zero => rfl
  | succ n ih => rw [crcBits, ih, Function.iterate_succ_apply]

/-- While no bit is lost, reduction steps only shift. -/
theorem crcBits_eq_shiftLeft {n : Nat} {r : Half} (h : r.toNat * 2 ^ n < 2 ^ 16) : crcBits n r = r <<< n := by
  induction n generalizing r with
  | zero => exact (BitVec.shiftLeft_zero r).symm
  | succ n ih =>
    have hr : r.toNat * 2 * 2 ^ n < 2 ^ 16 := by rwa [mul_assoc, ← pow_succ']
    have hpos : 0 < 2 ^ n := Nat.two_pow_pos n
    have hlow : r.toNat * 2 < 2 ^ 16 := lt_of_le_of_lt (Nat.le_mul_of_pos_right _ hpos) hr
    have hmsb : r.msb = false := BitVec.msb_eq_false_iff_two_mul_lt.mpr (by omega)
    have hshift : (r <<< 1).toNat = r.toNat * 2 := by
      rw [BitVec.toNat_shiftLeft, Nat.shiftLeft_eq, pow_one, Nat.mod_eq_of_lt hlow]
    rw [crcBits, crcBit_eq, hmsb, if_neg Bool.false_ne_true, ih (by rwa [hshift]), ← BitVec.shiftLeft_add, Nat.add_comm]

/-! ### The residue -/

/-- The register's own top byte cancels against it, and the bottom byte moves up. -/
theorem crcByte_be16_top (b0 b1 : Byte) : crcByte (be16 b0 b1) b0 = be16 b1 0 := by
  have hcancel : be16 b0 b1 ^^^ be16 b0 0 = b1.setWidth 16 := by
    refine BitVec.eq_of_getLsbD_eq fun i hi => ?_
    rw [BitVec.getLsbD_xor, getLsbD_be16, getLsbD_be16, BitVec.getLsbD_setWidth]
    by_cases h : i < 8
    · simp [h, hi]
    · simp [h, Nat.le_of_not_lt h]
  have hsmall : (b1.setWidth 16).toNat * 2 ^ 8 < 2 ^ 16 := by
    rw [BitVec.toNat_setWidth]
    omega
  rw [crcByte, setWidth_shiftLeft_eq_be16, hcancel, crcBits_eq_shiftLeft hsmall, setWidth_shiftLeft_eq_be16]

/-- A register folded over its own two bytes is 0. -/
theorem crcFrom_bytes16_self (r : Half) : crcFrom r (bytes16 r) = 0 := by
  calc crcFrom r (bytes16 r)
      = crcByte (crcByte (be16 (r.extractLsb' 8 8) (r.extractLsb' 0 8)) (r.extractLsb' 8 8)) (r.extractLsb' 0 8) := by
        rw [be16_bytes16]
        rfl
    _ = 0 := by
        rw [crcByte_be16_top, crcByte_be16_top]
        rfl

/-- Settles O19: the CRC over two pieces goes on from the CRC of the first, and meets its own bytes. -/
theorem crcResidueIsZero : Obligations.CrcResidueIsZero := fun bs =>
  (crcFrom_append 0xFFFF bs _).trans (crcFrom_bytes16_self (crc16 bs))

/-! ### The operations -/

/-- Outside the fault state, CRC_INIT forgets the register (R120). -/
theorem exec_crcInit {s : State} (h : s.fault = 0) :
    exec .crcInit s = .next ((s.setCrc 0xFFFF).setOutcome (some .done)) :=
  operation_ready (body := fun u => .going (u.setCrc 0xFFFF)) h

/-- Outside the fault state, CRC_BYTE folds its byte into the register (R121). -/
theorem exec_crcByte {s : State} (h : s.fault = 0) (b : Byte) :
    exec (.crcByte b) s = .next ((s.setCrc (crcByte s.crc b)).setOutcome (some .done)) :=
  operation_ready (body := fun u => .going (u.setCrc (crcByte u.crc b))) h

/-- Outside the fault state, CRC_OBUF of known bytes leaves their CRC (R124). -/
theorem exec_crcObuf {s : State} {bs : List Byte} (h : s.fault = 0) (o : s.OutIs bs) :
    exec .crcObuf s = .next ((s.setCrc (crc16 bs)).setOutcome (some .done)) :=
  (operation_ready h).trans (congrArg finish (crcOverOut_outIs o))

/-- Settles O16: the eight reduction steps are the iterate of one. -/
theorem crcInitAndByteUpdateRegister : Obligations.CrcInitAndByteUpdateRegister := by
  refine ⟨fun imm => ⟨?_, ?_⟩, fun s hf => ⟨exec_crcInit hf, fun b => ?_⟩⟩
  · simp [decodeRequest, reqOp_append]
  · simp [decodeRequest, reqOp_append, reqImm8_append]
  · rw [exec_crcByte hf, crcByte, setWidth_shiftLeft_eq_be16, crcBits_eq_iterate]
    rfl

/-- Settles O17: OBUF holds known bytes, and their CRC is the left fold. -/
theorem crcObufCoversOutput : Obligations.CrcObufCoversOutput := by
  refine ⟨fun imm => by simp [decodeRequest, reqOp_append], fun s hf hbuf => ?_⟩
  obtain ⟨hout, -⟩ := hbuf
  obtain ⟨bs, o⟩ := State.OutIs.of_holds hout
  refine ⟨bs, o.olen.symm, o.read, ?_⟩
  rw [exec_crcObuf hf o, crc16, crcFrom_eq_foldl]
  rfl

/-- A CRC_BYTE for each byte, after an operation that ended done: the register goes on over the bytes (R123). -/
theorem execFrom_crcBytes (bs : List Byte) {s : State} (h : s.fault = 0) :
    execFrom (bs.map Instr.crcByte) (.next (s.setOutcome (some .done)))
      = .next ((s.setCrc (crcFrom s.crc bs)).setOutcome (some .done)) := by
  induction bs generalizing s with
  | nil => rfl
  | cons b bs ih =>
    have hstep := exec_crcByte (s := s.setOutcome (some .done)) h b
    rw [List.map_cons, execFrom, hstep]
    exact ih (s := s.setCrc (crcByte s.crc b)) h

/-- Settles O18: CRC_INIT ends done with the initial value, from which the bytes are folded. -/
theorem handAccumulatedCrc : Obligations.HandAccumulatedCrc := by
  intro bs s hf
  rw [execFrom, exec_crcInit hf]
  exact execFrom_crcBytes bs (s := s.setCrc 0xFFFF) hf

end Sys2Proof.Machine
end

section
/-! The Frame Builder operations (R140 to R160): what each leaves from the fault-free state on, and that only whole frames are sent. -/
namespace Sys2Proof.Machine

/-! ### FRAME_BEGIN and FRAME_END -/

/-- Settles O20: the header's bytes are known, and so is their number. -/
theorem frameBeginOpensFrame : Obligations.FrameBeginOpensFrame := by
  refine ⟨fun imm => by simp [decodeRequest, reqOp_append, reqImm8_append], fun y s hf => ?_⟩
  obtain ⟨m, n, hbody, o⟩ := frameBegin_outIs y s
  have hdone := operation_ready (body := frameBegin y) hf
  rw [hbody] at hdone
  exact ⟨_, hdone, BitVec.eq_of_toNat_eq o.olen, o.read, rfl⟩

/-- An OBUF long enough for a size field, its first four bytes named. -/
theorem State.OutIs.of_holds_sizeField {s : State} (hb : s.obuf.holds s.olen.toNat) (h4 : 4 ≤ s.olen.toNat) :
    ∃ b0 b1 x y rest, s.OutIs ([b0, b1, x, y] ++ rest) := by
  obtain ⟨xs, o⟩ := State.OutIs.of_holds hb
  rw [o.olen] at h4
  match xs with
  | b0 :: b1 :: x :: y :: rest => exact ⟨b0, b1, x, y, rest, o⟩
  | [] | [_] | [_, _] | [_, _, _] =>
    simp only [List.length_cons, List.length_nil] at h4
    omega

/-- Settles O21: a case for each of the three ranges of OLEN. -/
theorem frameEndClosesFrame : Obligations.FrameEndClosesFrame := by
  refine ⟨fun imm => by simp [decodeRequest, reqOp_append], fun s hf => ⟨fun h4 => ?short, fun hl => ?long, ?closes⟩⟩
  case short => exact operation_raised hf (finalize_short h4)
  case long => exact operation_raised hf (finalize_long hl)
  case closes =>
    rintro ⟨hout, -⟩ h4 hl
    obtain ⟨b0, b1, x, y, rest, o⟩ := State.OutIs.of_holds_sizeField hout h4
    have hsize : s.olen.toNat + 2 = rest.length + 6 := by simp [o.olen]
    obtain ⟨m, n, hbody, o'⟩ := finalize_outIs o (by omega)
    have hdone := operation_ready (body := finalize) hf
    rw [hbody] at hdone
    rw [hsize]
    refine ⟨_, _, _, o.obufBytes, rfl, hdone, ?_, rfl, o'.read, rfl⟩
    refine o'.olen.trans ?_
    simp only [List.length_append, List.length_cons, List.length_nil, bytes16_length]
    omega

/-- Settles O22. -/
theorem closedFramesAreWhole : Obligations.ClosedFramesAreWhole := by
  rintro i s t hi ⟨hout, -⟩ h hd
  obtain ⟨f, o, hf⟩ := closing_done_whole hi hout h hd
  exact ⟨f, o.obufBytes, hf⟩

/-! ### BUILD_CFG2 and BUILD_DATA -/

theorem cfg2Frame_length (c : Station) (p : Params) :
    (cfg2Frame c p).length = 40 + 20 * (c.phName.length + c.anName.length) := by
  rw [cfg2Frame_eq, frameOf_length, cfg2Fields_length]
  omega

/-- `BUILD_CFG2` outside the fault state: the Configuration Frame in OBUF, its CRC in CRC, everything else as before (R148). -/
theorem exec_buildCfg2 {s : State} (hf : s.fault = 0) (hc : s.cfg.admitted = true) :
    ∃ c m n, exec .buildCfg2 s = .next (((s.setCrc c).setOut m n).setOutcome (some .done))
      ∧ c = crc16 ((cfg2Frame s.cfg s.par).take (38 + 20 * (s.cfg.phName.length + s.cfg.anName.length)))
      ∧ (s.setOut m n).OutIs (cfg2Frame s.cfg s.par) := by
  obtain ⟨c, m, n, hbody, hcrc, o⟩ := buildCfg2_outIs s hc
  exact ⟨c, m, n, (operation_ready hf).trans (congrArg finish hbody), hcrc, o⟩

/-- Settles O23: the frame is the one of R78, whose length fixes OLEN. -/
theorem buildCfg2LeavesLayout : Obligations.BuildCfg2LeavesLayout := by
  refine ⟨fun imm => by simp [decodeRequest, reqOp_append], fun s hf hc => ?_⟩
  obtain ⟨c, m, n, hdone, hcrc, o⟩ := exec_buildCfg2 hf hc
  exact ⟨_, hdone, o.read, o.olen.trans (cfg2Frame_length _ _), hcrc, rfl⟩

/-- Settles O26: both runs leave the same bytes, and OBUF has one content for them. -/
theorem configurationFrameIgnoresState : Obligations.ConfigurationFrameIgnoresState := by
  intro s s' t t' hf hf' hcfg hpar hc h h'
  obtain ⟨c, m, n, hdone, hcrc, o⟩ := exec_buildCfg2 hf hc
  obtain ⟨c', m', n', hdone', hcrc', o'⟩ := exec_buildCfg2 hf' (hcfg ▸ hc)
  rw [← hcfg, ← hpar] at hcrc' o'
  cases hdone.symm.trans h
  cases hdone'.symm.trans h'
  obtain ⟨hobuf, holen⟩ := o.unique o'
  exact ⟨hobuf, holen, hcrc.trans hcrc'.symm⟩

/-- Settles O24: the fields sampled from complete inputs, put together, are the frame of R76. -/
theorem buildDataLeavesLayout : Obligations.BuildDataLeavesLayout := by
  refine ⟨fun imm => by simp [decodeRequest, reqOp_append], fun s t₀ x hf hc ht hx hph han => ?_⟩
  obtain ⟨c, m, n, hbody, hcrc, o⟩ := buildData_outIs s hc
  have hdone := operation_ready (body := buildData) hf
  rw [hbody] at hdone
  have hlen : (dataFrame s.cfg s.par t₀ x).length = 26 + 8 * s.cfg.phName.length + 4 * s.cfg.anName.length := by
    rw [dataFrame_eq s t₀ x ht hx hph han, frameOf_length, dataFields_length]
    omega
  rw [← dataFrame_eq s t₀ x ht hx hph han] at hcrc o
  exact ⟨_, hdone, o.read, o.olen.trans hlen, hcrc, rfl⟩

end Sys2Proof.Machine
end

section
/-! What every move adds to the wire: whole frames only (R160, R207, R248). The relation is reflexive and transitive, so that a move of
several parts is a chain of them. -/
namespace Sys2Proof.Machine

/-- From the one state to the other, nothing but whole frames has been sent. -/
def State.SendsWhole (s t : State) : Prop :=
  ∃ fs, t.wire = s.wire ++ fs ∧ ∀ f ∈ fs, wholeFrame f

theorem State.SendsWhole.of_wire_eq {s t : State} (h : t.wire = s.wire) : s.SendsWhole t :=
  ⟨[], by rw [h, List.append_nil], nofun⟩

theorem State.SendsWhole.trans {s u t : State} (h : s.SendsWhole u) (h' : u.SendsWhole t) : s.SendsWhole t := by
  obtain ⟨fs, hu, hfs⟩ := h
  obtain ⟨fs', ht, hfs'⟩ := h'
  exact ⟨fs ++ fs', by rw [ht, hu, List.append_assoc], List.forall_mem_append.mpr ⟨hfs, hfs'⟩⟩

/-! ### Requests and builders -/

theorem exec_request_wire {i : Instr} (hi : i.isRequest = true) {s t : State} (h : exec i s = .next t) :
    t.wire = s.wire := by
  rw [(operationsWriteOnlyTheirOwn i s t hi h).1]

/-- A frame built from a fresh header and ended done is whole, whatever OBUF held before (R142, R160). -/
theorem builder_done_whole {i : Instr} (hi : i = .buildCfg2 ∨ i = .buildData) {s t : State} (h : exec i s = .next t)
    (hd : t.outcome = some .done) {f : List Byte} (hb : t.obufBytes = some f) : wholeFrame f := by
  have whole {u : State} (hu : ∃ g, u.OutIs g ∧ wholeFrame g) (hub : u.obufBytes = some f) : wholeFrame f := by
    obtain ⟨g, o, hg⟩ := hu
    cases o.obufBytes.symm.trans hub
    exact hg
  obtain rfl | rfl := hi
  · obtain ⟨u, hu, rfl⟩ := operation_done (body := buildCfg2) h hd
    exact whole (buildFrame_going_whole hu) hb
  · obtain ⟨u, hu, rfl⟩ := operation_done (body := buildData) h hd
    exact whole (buildFrame_going_whole hu) hb

/-- A builder that did not end done sends nothing, and any other a whole frame (R248). -/
theorem sendThenStream_sendsWhole {i : Instr} (hi : i = .buildCfg2 ∨ i = .buildData) {s t : State}
    (h : sendThenStream (exec i s) = .next t) : s.SendsWhole t := by
  have hreq : i.isRequest = true := by
    obtain rfl | rfl := hi <;> rfl
  obtain ⟨u, hu, ⟨-, rfl⟩ | ⟨hd, f, hb, rfl⟩⟩ := sendThenStream_next h
  · exact .of_wire_eq (exec_request_wire hreq hu)
  · refine ⟨[f], ?_, List.forall_mem_singleton.mpr (builder_done_whole hi hu hd hb)⟩
    rw [← exec_request_wire hreq hu]
    rfl

/-! ### The host's moves -/

theorem applyClass_sendsWhole {k : CmdClass} {s t : State} (h : applyClass k s = .next t) : s.SendsWhole t := by
  obtain ⟨-, e⟩ | ⟨-, -, e⟩ | ⟨-, -, e⟩ | ⟨-, -, e⟩ := applyClass_cases k s
  · cases e.symm.trans h
    exact .of_wire_eq rfl
  · cases e.symm.trans h
    exact .of_wire_eq rfl
  · cases e.symm.trans h
    exact .of_wire_eq rfl
  · exact sendThenStream_sendsWhole (.inl rfl) (e.symm.trans h)

theorem react_sendsWhole {s t : State} (h : react s = .next t) : s.SendsWhole t := by
  unfold react at h
  split_ifs at h
  · exact applyClass_sendsWhole h
  · cases h
    exact .of_wire_eq rfl

theorem runReceive_sendsWhole {bs : List Byte} {s t : State} (h : runReceive bs s = .next t) : s.SendsWhole t := by
  rw [runReceive_eq, receiveChunk] at h
  split_ifs at h
  split at h
  · next u hu =>
    have hparsed : u.wire = s.wire := exec_request_wire (i := .parseCmd) (s := loadIn bs s) rfl hu
    exact (State.SendsWhole.of_wire_eq hparsed).trans (react_sendsWhole h)
  · next hn => exact absurd h (hn t)

theorem runAct_sendsWhole {s t : State} (h : runAct s = .next t) : s.SendsWhole t := by
  rw [runAct, exec_decodeCommand] at h
  split_ifs at h
  · exact applyClass_sendsWhole h
  · cases h
    exact .of_wire_eq rfl

theorem schedule_sendsWhole {s t : State} (h : schedule s = .next t) : s.SendsWhole t := by
  unfold schedule at h
  split at h
  · split_ifs at h
    · exact sendThenStream_sendsWhole (i := .buildData) (.inr rfl) h
    · cases h
      exact .of_wire_eq rfl
  · cases h
    exact .of_wire_eq rfl

/-- One iteration of the control loop sends at most a configuration frame in (a) and a data frame in (b), each whole (R205). -/
theorem runTick_sendsWhole {now : Nat} {rx : List Byte} {s t : State} (h : runTick now rx s = .next t) :
    s.SendsWhole t := by
  have hnow : s.SendsWhole (s.setNow now) := .of_wire_eq rfl
  have hrx (u : State) (hu : (if rx = [] then .next (s.setNow now) else runReceive rx (s.setNow now)) = .next u) :
      s.SendsWhole u := by
    split_ifs at hu
    · cases hu
      exact hnow
    · exact hnow.trans (runReceive_sendsWhole hu)
  unfold runTick at h
  split at h
  · cases h
    exact hnow
  · split at h
    · next u hu => exact (hrx u hu).trans (schedule_sendsWhole h)
    · next hn => exact absurd h (hn t)

/-- The host's access to the buffers, a reset and a connection send nothing. -/
theorem runMove_sendsWhole {m : HostMove} {s t : State} (h : runMove m s = .next t) : s.SendsWhole t := by
  cases m with
  | request w => exact .of_wire_eq (exec_request_wire (decodeRequest_isRequest w) h)
  | ibufLoad bs =>
    simp only [runMove, hostIbufLoad] at h
    split_ifs at h
    cases h
    exact .of_wire_eq rfl
  | obufRead =>
    simp only [runMove, hostObufRead] at h
    split at h <;> cases h
    exact .of_wire_eq rfl
  | regRead | present | presentDegrees | disconnect =>
    cases h
    exact .of_wire_eq rfl
  | regWrite idx v =>
    cases h
    split_ifs <;> exact .of_wire_eq rfl
  | reset c p =>
    simp only [runMove, hostReset] at h
    split_ifs at h
    cases h
    exact .of_wire_eq rfl
  | connect =>
    cases h
    split_ifs <;> exact .of_wire_eq rfl
  | receive bs => exact runReceive_sendsWhole h
  | act => exact runAct_sendsWhole h
  | tick now rx => exact runTick_sendsWhole h

theorem step_sendsWhole {s t : State} (h : step s = .next t) : s.SendsWhole t := by
  cases hp : s.pending with
  | nil =>
    rw [step, fetchAndRun, hp] at h
    cases h
    exact .of_wire_eq rfl
  | cons m rest =>
    rw [step_cons hp] at h
    exact .trans (u := s.setPending rest) (.of_wire_eq rfl) (runMove_sendsWhole h)

/-- Settles O53: the frames on the wire are the old ones and whole new ones. A frame that is sent was opened afresh, so the invariant's
account of OBUF is not needed. -/
theorem wireCarriesWholeFrames : Obligations.WireCarriesWholeFrames := by
  intro s t _ hwire h
  obtain ⟨fs, ht, hfs⟩ := step_sendsWhole h
  rw [ht]
  exact List.forall_mem_append.mpr ⟨hwire, hfs⟩

end Sys2Proof.Machine
end

section
/-! PARSE_CMD from the fault-free state on (R170 to R182): the row it leaves, the two ends of ILEN, a frame it accepts, and what it reads. -/
namespace Sys2Proof.Machine

/-! ### The row of the table -/

/-- The fields of STATUS do not overlap: put together by or, they are their sum (R31). -/
theorem parseStatus_eq_tableStatus (res : Option ParseError) (bad : Bool) : parseStatus res bad = tableStatus res bad := by
  cases res with
  | none => cases bad <;> rfl
  | some e => cases e <;> cases bad <;> rfl

/-- Settles O27: IBUF holds known bytes, and the parse of known bytes is the table. -/
theorem parseFollowsResultTable : Obligations.ParseFollowsResultTable := by
  refine ⟨fun imm => by simp [decodeRequest, reqOp_append], fun s hf hbuf => ?_⟩
  obtain ⟨-, hin⟩ := hbuf
  obtain ⟨bs, h⟩ := State.InIs.of_holds hin
  refine ⟨bs, _, h.ilen.symm, h.read, rfl, (execParseCmd_inIs hf h).trans ?_⟩
  generalize parseTable _ _ _ _ _ _ = r -- no equality below may evaluate the CRC
  rw [← parseStatus_eq_tableStatus]
  rfl

/-- Outside the fault state, PARSE_CMD records the result of a parse and does nothing else (R172). -/
theorem execParseCmd_next_ready {s t : State} (hf : s.fault = 0) (h : execParseCmd s = .next t) :
    ∃ r, parse s = some r ∧ t = recordParse r s := by
  simpa [hf] using execParseCmd_next h

/-! ### Short and long chunks -/

/-- Fewer than ten bytes end the parse before any is read (R173). -/
theorem parse_short {s : State} (h : s.ilen.toNat < 10) : parse s = some ⟨some .tooShort, s.crc, s.cmd, false⟩ :=
  if_pos h

/-- Checks 4 and 5 do not look at the length again. -/
theorem parseBody_ne_tooShort {s : State} {n : Nat} {r : Parsed} (h : parseBody s n = some r) : r.res ≠ some .tooShort := by
  obtain ⟨covered, -, h⟩ := Option.bind_eq_some_iff.mp h
  obtain ⟨trailing, -, h⟩ := Option.bind_eq_some_iff.mp h
  dsimp only at h
  split_ifs at h
  · cases h
    exact nofun
  · obtain ⟨id, -, h⟩ := Option.bind_eq_some_iff.mp h
    split_ifs at h
    · cases h
      exact nofun
    · obtain ⟨code, -, h⟩ := Option.bind_eq_some_iff.mp h
      cases h
      exact nofun

/-- Ten bytes or more pass check 1 (R173). -/
theorem parse_long_ne_tooShort {s : State} {r : Parsed} (h10 : 10 ≤ s.ilen.toNat) (h : parse s = some r) :
    r.res ≠ some .tooShort := by
  rw [parse, if_neg (Nat.not_lt.mpr h10)] at h
  obtain ⟨b0, -, h⟩ := Option.bind_eq_some_iff.mp h
  obtain ⟨b1, -, h⟩ := Option.bind_eq_some_iff.mp h
  split_ifs at h
  · cases h
    exact nofun
  · obtain ⟨size, -, h⟩ := Option.bind_eq_some_iff.mp h
    split_ifs at h
    · cases h
      exact nofun
    · exact parseBody_ne_tooShort h

/-- STATUS tells TooShort from every other result (R31). -/
theorem parseStatus_ne_tooShort {res : Option ParseError} (h : res ≠ some .tooShort) (bad : Bool) :
    parseStatus res bad ≠ 0x0009 := by
  match res with
  | some .tooShort => exact absurd rfl h
  | none | some .badHeader | some .badLength | some .crcMismatch | some .idMismatch => cases bad <;> decide

theorem parseOutcome_eq_done_iff (res : Option ParseError) : parseOutcome res = .done ↔ res = none := by
  cases res <;> simp [parseOutcome]

theorem parseOutcome_eq_error_iff (res : Option ParseError) (e : ParseError) :
    parseOutcome res = .error e ↔ res = some e := by
  cases res <;> simp [parseOutcome]

/-- Settles O28: check 1 decides, and no later one gives its result. -/
theorem shortChunkIsTooShort : Obligations.ShortChunkIsTooShort := by
  refine fun s hf => ⟨fun h => ?_, fun h10 t h => ?_⟩
  · show execParseCmd s = _
    have hstatus : parseStatus (some .tooShort) false = 0x0009 := by decide
    rw [execParseCmd, if_neg (not_not.mpr hf), parse_short h, ← hstatus]
    rfl
  · obtain ⟨r, hr, rfl⟩ := execParseCmd_next_ready hf h
    have hres := parse_long_ne_tooShort h10 hr
    refine ⟨?_, parseStatus_ne_tooShort hres r.bad⟩
    rwa [recordParse_outcome, ne_eq, Option.some_inj, parseOutcome_eq_error_iff]

/-! ### A well-formed command frame -/

/-- Settles O29: the frame is accepted by the table, whatever follows it. -/
theorem wellFormedCommandFrameAccepted : Obligations.WellFormedCommandFrameAccepted := by
  intro s id code extra after hf hid hl hl' frame
  have hfit : (frame ++ after).length ≤ 65535 := by
    simp only [frame, List.length_append, frameOf_length, bytes16_length]
    omega
  have hstatus : parseStatus none false = 0x0008 := by decide
  refine ⟨_, execFrom_parseCmd_ibufLoad hfit hf, ?_⟩
  rw [parseTable_command _ _ _ _ _ _ _ _ _ hid hl]
  exact ⟨rfl, hstatus, rfl, rfl⟩

/-! ### What a parse reads -/

/-- Two states agree on all that PARSE_CMD reads (R170). -/
structure State.ParserInputsEq (s s' : State) : Prop where
  ibuf    : s.ibuf = s'.ibuf
  ilen    : s.ilen = s'.ilen
  pmuId   : s.cfg.pmuId = s'.cfg.pmuId
  sync    : s.par.sync = s'.par.sync
  typeCmd : s.par.typeCmd = s'.par.typeCmd
  enforce : ctrlEnforce s.ctrl = ctrlEnforce s'.ctrl

/-- Check 4 was reached: the parse has computed a CRC (R172). -/
def Parsed.computedCrc (r : Parsed) : Bool :=
  r.res ∈ [none, some .crcMismatch, some .idMismatch]

/-- The same result over another CRC and CMD: a parse keeps what it does not write (R172). -/
def Parsed.over (crc cmd : Half) (r : Parsed) : Parsed :=
  { r with crc := if r.computedCrc then r.crc else crc, cmd := if r.res = none then r.cmd else cmd }

/-- Checks 4 and 5 use, besides the parser's inputs, the CMD they keep. -/
theorem parseBody_over {s s' : State} (h : s.ParserInputsEq s') (n : Nat) :
    parseBody s' n = (parseBody s n).map (Parsed.over s'.crc s'.cmd) := by
  simp only [parseBody, h.ibuf, h.pmuId, h.enforce, Option.bind_eq_bind, Option.map_bind, Function.comp_def,
    apply_ite (Option.map _)]
  rfl

/-- PARSE_CMD uses, besides its inputs, the CRC and the CMD it keeps (R170). -/
theorem parse_over {s s' : State} (h : s.ParserInputsEq s') :
    parse s' = (parse s).map (Parsed.over s'.crc s'.cmd) := by
  simp only [parse, parseBody_over h, h.ibuf, h.ilen, h.sync, h.typeCmd, Option.bind_eq_bind, Option.map_bind,
    Function.comp_def, apply_ite (Option.map _)]
  rfl

/-- Settles O31: the second result is the first, over another CRC and CMD. -/
theorem parseReadsOnlyItsInputs : Obligations.ParseReadsOnlyItsInputs := by
  intro s s' t t' hf hf' hibuf hilen hid hsync htype henforce h h'
  have hin : s.ParserInputsEq s' := ⟨hibuf, hilen, hid, hsync, htype, henforce⟩
  obtain ⟨r, hr, rfl⟩ := execParseCmd_next_ready hf h
  obtain ⟨r', hr', rfl⟩ := execParseCmd_next_ready hf' h'
  rw [parse_over hin, hr] at hr'
  cases hr'
  simp only [recordParse_outcome, Option.some_inj, parseOutcome_eq_done_iff, parseOutcome_eq_error_iff]
  refine ⟨rfl, rfl, fun hdone => (if_pos hdone).symm, fun hreached => (if_pos ?_).symm⟩
  simpa [Parsed.computedCrc] using hreached

end Sys2Proof.Machine
end

section
/-! The host's session (R190 to R197): it lives with the connection, a command code moves it by its class, and a received chunk is loaded,
parsed and acted on. -/
namespace Sys2Proof.Machine

/-! ### A connection and the three classes -/

/-- Settles O36: the two classes that send nothing. -/
theorem disableAndEnableMoveSession : Obligations.DisableAndEnableMoveSession :=
  fun _ hs => ⟨applyClass_disable hs, applyClass_enable hs⟩

/-- Settles O46: a connection opens a session only where there is none. -/
theorem sessionLivesWithConnection : Obligations.SessionLivesWithConnection :=
  fun _ => ⟨fun hs hf => congrArg _ (if_pos ⟨hs, hf⟩), fun hs => congrArg _ (if_neg fun h => hs h.1), rfl⟩

/-- The four rows that ask for a configuration have one meaning (R193, R195). -/
theorem exec_sendClass {i : Instr} {code : Half} (hi : i ∈ [.cmdSendHdr, .cmdSendCfg1, .cmdSendCfg2, .cmdOther code])
    (s : State) : exec i s = applyClass .sendCfg s := by
  simp only [List.mem_cons, List.not_mem_nil, or_false] at hi
  obtain rfl | rfl | rfl | rfl := hi <;> rfl

/-- Settles O37: the one meaning of the four rows sends the frame. -/
theorem sendClassSendsOneConfiguration : Obligations.SendClassSendsOneConfiguration := by
  intro i code s hi
  rw [exec_sendClass hi]
  refine ⟨rfl, fun hs hf hc => ?_⟩
  obtain ⟨c, m, n, h, -⟩ := applyClass_sendCfg hs hf hc
  exact ⟨_, h, rfl, rfl, rfl⟩

/-- Settles O38: a case for each class of the code. -/
theorem everyCodeActsByItsClass : Obligations.EveryCodeActsByItsClass := by
  intro code s hs hf hc
  rw [exec_decodeCommand, classify]
  split_ifs
  · exact ⟨_, applyClass_disable hs, rfl⟩
  · exact ⟨_, applyClass_enable hs, rfl⟩
  · obtain ⟨c, m, n, h, o⟩ := applyClass_sendCfg hs hf hc
    exact ⟨_, h, rfl, rfl, o.read, rfl⟩

/-! ### A parse that fails -/

/-- Only a parse ends in a parse error: no other operation does (R13). -/
theorem operation_outcome_ne_error {body : State → Ended} {s t : State} (h : operation body s = .next t) (e : ParseError) :
    t.outcome ≠ some (.error e) := by
  obtain ⟨-, rfl⟩ | ⟨-, u, -, rfl⟩ | ⟨-, c, u, -, rfl⟩ := operation_next h <;> exact nofun

/-- Acting on a class ends in no parse error, where none is recorded before. -/
theorem applyClass_outcome_ne_error {k : CmdClass} {s t : State} {e : ParseError} (hs : s.outcome ≠ some (.error e))
    (h : applyClass k s = .next t) : t.outcome ≠ some (.error e) := by
  obtain ⟨-, he⟩ | ⟨-, -, he⟩ | ⟨-, -, he⟩ | ⟨-, -, he⟩ := applyClass_cases k s
  · cases he.symm.trans h
    exact hs
  · cases he.symm.trans h
    exact hs
  · cases he.symm.trans h
    exact hs
  · obtain ⟨u, hu, ⟨-, rfl⟩ | ⟨-, f, -, rfl⟩⟩ := sendThenStream_next (he.symm.trans h)
    · exact operation_outcome_ne_error hu e
    · exact operation_outcome_ne_error (t := u) hu e

/-- The host reacts to a parse error by nothing (R196). -/
theorem react_error {s t : State} {e : ParseError} (h : react s = .next t) (he : t.outcome = some (.error e)) : t = s := by
  unfold react at h
  split_ifs at h with hd
  · exact absurd he (applyClass_outcome_ne_error (by rw [hd]; exact nofun) h)
  · cases h
    rfl

/-- Every row of the table of R182 that is an error keeps CMD (R178). -/
theorem parseTable_error_cmd {p : Params} {own : Half} {enforce : Bool} {crc cmd : Half} {bs : List Byte}
    (h : (parseTable p own enforce crc cmd bs).res ≠ none) : (parseTable p own enforce crc cmd bs).cmd = cmd := by
  unfold parseTable at h ⊢
  dsimp only at h ⊢
  split_ifs at h ⊢
  · rfl
  · rfl
  · rfl
  · rfl
  · rfl
  · exact absurd rfl h

/-- Settles O41: a chunk too long or in the fault state ends in no parse error; of any other the parse writes CMD only when it is OK. -/
theorem failedParseMakesNoTransition : Obligations.FailedParseMakesNoTransition := by
  intro bs s t e h he
  rw [runMove, runReceive_eq] at h
  by_cases hl : bs.length ≤ 65535
  · by_cases hf : s.fault = 0
    · rw [receiveChunk_ready hl hf] at h
      obtain rfl := react_error h he
      have hres := (parseOutcome_eq_error_iff _ e).mp (Option.some_inj.mp he)
      exact ⟨rfl, rfl, parseTable_error_cmd (by rw [hres]; exact nofun), rfl, rfl, rfl⟩
    · rw [receiveChunk_refused hl hf] at h
      cases h
      cases he
  · rw [receiveChunk, if_pos (show bs.length > ibufCap from Nat.not_le.mp hl)] at h
    cases h

/-! ### One move and three -/

theorem core_run_one (M : Host.Core) (s : M.State) : M.run 1 s = M.step s := by
  rw [Host.Core.run]
  cases M.step s <;> rfl

theorem core_run_succ {M : Host.Core} {s u : M.State} (k : Nat) (h : M.step s = .next u) :
    M.run (k + 1) s = M.run k u := by
  rw [Host.Core.run, h]

/-- STATUS tells an accepted parse from every other (R31). -/
theorem parseStatus_accepted_iff (res : Option ParseError) (bad : Bool) :
    ((parseStatus res bad).getLsbD 3 = true ∧ parseStatus res bad &&& 0x0007 = 0) ↔ res = none := by
  cases res with
  | none => cases bad <;> decide
  | some e => cases e <;> cases bad <;> decide

/-- Right after a parse, acting on CMD is reacting to the parse: STATUS and the outcome say the same of it (R190, R196). -/
theorem runAct_recordParse {s : State} (r : Parsed) (hf : s.fault = 0) : runAct (recordParse r s) = react (recordParse r s) := by
  have hmay : mayAct (recordParse r s) = true ↔ (recordParse r s).outcome = some .done := by
    rw [mayAct_iff, recordParse_status, parseStatus_accepted_iff, recordParse_outcome, Option.some_inj, parseOutcome_eq_done_iff]
    exact and_iff_right hf
  rw [runAct, exec_decodeCommand]
  exact if_congr hmay rfl rfl

/-- In the fault state the host does not act (R211). -/
theorem runAct_faulted {s : State} (hf : s.fault ≠ 0) : runAct s = .next s :=
  if_neg fun h => hf ((mayAct_iff s).mp h).1

/-- Two steps that answer a next state, and a third. -/
theorem core_run_three {s u v : State} (h : step s = .next u) (h' : step u = .next v) : Host.Core.run core 3 s = step v :=
  (core_run_succ (M := core) 2 h).trans ((core_run_succ (M := core) 1 h').trans (core_run_one core v))

/-- The host's three moves: what PARSE_CMD of the loaded chunk leaves is acted on (R205 (a)). -/
theorem core_run_load_parse_act {bs : List Byte} {s u : State} {rest : List HostMove} (hl : bs.length ≤ 65535)
    (hparse : execParseCmd (loadIn bs (s.setPending (.act :: rest))) = .next u) (hu : u.pending = .act :: rest) :
    Host.Core.run core 3 (s.setPending (.ibufLoad bs :: .request 0xD00000000 :: .act :: rest)) = runAct (u.setPending rest) := by
  have hload : step (s.setPending (.ibufLoad bs :: .request 0xD00000000 :: .act :: rest))
      = .next (loadIn bs (s.setPending (.request 0xD00000000 :: .act :: rest))) := by
    rw [step_cons (s := s.setPending _) rfl]
    exact if_neg (Nat.not_lt.mpr hl)
  have hreq : step (loadIn bs (s.setPending (.request 0xD00000000 :: .act :: rest))) = .next u := by
    rw [step_cons (s := loadIn bs (s.setPending _)) rfl]
    exact hparse
  exact (core_run_three hload hreq).trans (step_cons hu)

/-- Settles O42: both ways load and parse; then the three moves act where the one reacts. -/
theorem receiveIsLoadParseAct : Obligations.ReceiveIsLoadParseAct := by
  intro bs s rest hl
  have hone : Host.Core.run core 1 (s.setPending (.receive bs :: rest)) = receiveChunk bs (s.setPending rest) :=
    (core_run_one core _).trans ((step_cons (s := s.setPending (.receive bs :: rest)) rfl).trans (runReceive_eq bs _))
  refine hone.trans ?_
  by_cases hf : s.fault = 0
  · have hparse := execParseCmd_inIs (s := loadIn bs (s.setPending (.act :: rest))) hf (loadIn_inIs bs _ hl)
    refine Eq.trans ?_ (core_run_load_parse_act hl hparse rfl).symm
    rw [receiveChunk_ready hl (s := s.setPending rest) hf]
    exact (runAct_recordParse (s := loadIn bs (s.setPending rest)) _ hf).symm
  · have hparse : execParseCmd (loadIn bs (s.setPending (.act :: rest))) = _ := if_pos hf
    refine Eq.trans ?_ (core_run_load_parse_act hl hparse rfl).symm
    rw [receiveChunk_refused hl (s := s.setPending rest) hf]
    exact (runAct_faulted (s := (loadIn bs (s.setPending rest)).setOutcome (some .refused)) hf).symm

end Sys2Proof.Machine
end

section
/-! The scheduler (R201 to R207): when an emission is due, and what one iteration of the control loop sends. -/
namespace Sys2Proof.Machine

/-! ### When an emission is due -/

/-- Settles O44: the model's comparisons over Nat are the rational ones, without a division by the positive rate and ticks. -/
theorem emissionDueAtInterval : Obligations.EmissionDueAtInterval := by
  intro ticks rate last now ht hr
  have htq : (0 : ℚ) < ticks := by exact_mod_cast ht
  have hrq : (0 : ℚ) < rate := by exact_mod_cast hr
  simp only [emissionDue, decide_eq_true_eq]
  constructor
  · rw [div_le_div_iff₀ hrq htq, sub_mul, le_sub_iff_add_le']
    exact_mod_cast Iff.rfl
  · rw [le_div_iff₀ htq, le_sub_iff_add_le']
    exact_mod_cast Iff.rfl

/-- At the very clock of the last emission none is due, unless the interval is truncated to 0 (R207; log 27). -/
theorem emissionDue_self {d : IntervalDiv} {ticks rate : Nat} (now : Nat) (ht : 1 ≤ ticks) (hr : 1 ≤ rate)
    (hd : d = .exact ∨ rate ≤ 1000) : emissionDue d ticks rate now now = false := by
  cases d with
  | exact =>
    refine decide_eq_false ?_
    omega
  | floor =>
    have hquot : 1 ≤ 1000 / rate := (Nat.one_le_div_iff hr).mpr (hd.resolve_left nofun)
    have hpos : 1 ≤ 1000 / rate * ticks := Nat.mul_pos hquot ht
    refine decide_eq_false ?_
    omega

/-! ### The scheduler and the control loop -/

theorem schedule_due {s : State} {last : Nat} (hs : s.session = some (.streaming last))
    (hd : emissionDue s.intervalDiv s.ticksPerMs s.cfg.dataRate.toNat last s.now = true) :
    schedule s = sendThenStream (execBuildData s) := by
  simp only [schedule, hs, hd, if_true]

theorem schedule_not_due {s : State} {last : Nat} (hs : s.session = some (.streaming last))
    (hd : emissionDue s.intervalDiv s.ticksPerMs s.cfg.dataRate.toNat last s.now = false) : schedule s = .next s := by
  simp only [schedule, hs, hd, Bool.false_eq_true, if_false]

theorem schedule_idle {s : State} (hs : s.session = some .idle) : schedule s = .next s := by
  simp only [schedule, hs]

/-- On an open session, a tick without inbound bytes is the scheduler alone (R205). -/
theorem runTick_nil {s : State} {x : Session} (now : Nat) (hs : s.session = some x) :
    runTick now [] s = schedule (s.setNow now) := by
  simp only [runTick, State.setNow_session, hs, if_true]

/-- On an open session, a tick with inbound bytes is their handling, then the scheduler (R205). -/
theorem runTick_receive {s u : State} {now : Nat} {rx : List Byte} (hs : s.session ≠ none) (hrx : rx ≠ [])
    (h : receiveChunk rx (s.setNow now) = .next u) : runTick now rx s = schedule u := by
  obtain ⟨x, hx⟩ := Option.ne_none_iff_exists'.mp hs
  simp only [runTick, State.setNow_session, hx, hrx, if_false, runReceive_eq, h]

/-- A Data Frame of complete inputs is sent, and the session streams from now (R202). -/
theorem sendThenStream_buildData {s : State} {t₀ : TimeIn} {x : Sample} (hf : s.fault = 0) (hc : s.cfg.admitted = true)
    (ht : s.timeIn = some t₀) (hx : s.smpIn = some x) (hph : x.ph.length = s.cfg.phName.length)
    (han : x.an.length = s.cfg.anName.length) :
    ∃ c m n, sendThenStream (execBuildData s) = .next { s.takeInputs with
      crc := c, obuf := m, olen := n, outcome := some .done, session := some (.streaming s.now)
      wire := s.wire ++ [dataFrame s.cfg s.par t₀ x], hostBytes := dataFrame s.cfg s.par t₀ x } := by
  obtain ⟨c, m, n, h, o⟩ := execBuildData_ready hf hc
  rw [← dataFrame_eq s t₀ x ht hx hph han] at o
  have ob : (((s.takeInputs.setCrc c).setOut m n).setOutcome (some .done)).obufBytes = some (dataFrame s.cfg s.par t₀ x) :=
    o.obufBytes
  exact ⟨c, m, n, by rw [h, sendThenStream_sends rfl ob]; rfl⟩

/-- Settles O43: a case for a due emission, one for none, and the idle session. -/
theorem schedulerSendsAtMostOne : Obligations.SchedulerSendsAtMostOne := by
  refine fun s now => ⟨fun last t₀ x hs hf hc ht hx hph han hd => ?due, fun last hs hd => ?notDue, fun hs => ?idle⟩
  case due =>
    obtain ⟨c, m, n, h⟩ := sendThenStream_buildData (s := s.setNow now) hf hc ht hx hph han
    have hrun := (runTick_nil now hs).trans ((schedule_due (s := s.setNow now) hs hd).trans h)
    exact ⟨_, hrun, rfl, rfl, rfl⟩
  case notDue => exact (runTick_nil now hs).trans (schedule_not_due (s := s.setNow now) hs hd)
  case idle => exact (runTick_nil now hs).trans (schedule_idle (s := s.setNow now) hs)

theorem frameOf_eq_cons (sync type : Byte) (id : Half) (payload : List Byte) :
    ∃ body, sync :: type :: body = frameOf sync type id payload :=
  ⟨_, rfl⟩

/-- Settles O45: the command is acted on first, and leaves a session that streams from now, for which no emission is due. -/
theorem configurationResponseGoesFirst : Obligations.ConfigurationResponseGoesFirst := by
  intro s now id code hf hs hc hid hdis hena hticks hint
  obtain ⟨body, hbody⟩ := frameOf_eq_cons s.par.sync s.par.typeCmd id (bytes16 code)
  obtain ⟨t, hrecv, -, -, -, hclass, ht⟩ := acceptedFrameMovesSession (s.setNow now) id code [] body hf hs hc hid (by simp)
    (by rw [List.append_nil]; exact hbody)
  simp only [State.setNow_par, hdis, hena, if_false] at hclass
  obtain ⟨hsession, hwire, -⟩ := hclass
  have hclock : t.intervalDiv = s.intervalDiv ∧ t.ticksPerMs = s.ticksPerMs ∧ t.cfg = s.cfg ∧ t.now = now := by
    rw [ht]
    exact ⟨rfl, rfl, rfl, rfl⟩
  obtain ⟨hdiv, hticksPerMs, hcfg, hnow⟩ := hclock
  have hdue : emissionDue t.intervalDiv t.ticksPerMs t.cfg.dataRate.toNat now t.now = false := by
    rw [hdiv, hticksPerMs, hcfg, hnow]
    exact emissionDue_self now hticks (Station.admitted_lengths hc).2.2 hint
  rw [← hbody]
  exact ⟨t, (runTick_receive hs (List.cons_ne_nil _ _) hrecv).trans (schedule_not_due hsession hdue), hwire, hsession⟩

end Sys2Proof.Machine
end

section
/-! Faults of the block (R219, R220, R222): what a request changes that faults, and what one changes in the fault state. -/
namespace Sys2Proof.Machine

/-- PARSE_CMD in the fault state is refused, as every other request is (R222). -/
theorem execParseCmd_refused {s : State} (hf : s.fault ≠ 0) : execParseCmd s = .next (s.setOutcome (some .refused)) :=
  if_pos hf

/-- Settles O7: fifteen of the requests are an `operation`, and PARSE_CMD has the same guard. -/
theorem faultStateRefusesRequests : Obligations.FaultStateRefusesRequests := by
  intro i s hi hf
  cases i with
  | obufClear => exact operation_refused (body := fun u => .going (clearOut u)) hf
  | crcInit => exact operation_refused (body := fun u => .going (u.setCrc 0xFFFF)) hf
  | crcByte b => exact operation_refused (body := fun u => .going (u.setCrc (crcByte u.crc b))) hf
  | putU16 | putI16 | putU32 | putF32 | putU8 | putName16 | crcObuf | frameBegin | frameEnd | buildCfg2 | buildData | getU16 =>
    exact operation_refused hf
  | parseCmd => exact execParseCmd_refused hf
  | frameCmd | frameData | frameCfg2 | cmdDisable | cmdEnable | cmdSendHdr | cmdSendCfg1 | cmdSendCfg2 | cmdOther =>
    cases hi

/-- Settles O11: six of the requests end in an append, and FRAME_END checks the room for its CRC before it writes. -/
theorem overflowChangesFaultOnly : Obligations.OverflowChangesFaultOnly := by
  have puts {i : Instr} {bs : List Byte} (h : exec i = operation (append bs)) : overflowsPast i bs.length :=
    (exec_append h).2
  refine ⟨fun v => ⟨puts (bs := bytes16 v) rfl, puts (bs := bytes16 v) rfl⟩,
    fun v => ⟨puts (bs := bytes32 v) rfl, puts (bs := bytes32 v) rfl⟩, fun b => puts (bs := [b]) rfl,
    fun k s hf hk hl => ?name, fun s hf hl => ?frameEnd⟩
  case name =>
    obtain ⟨name, -, hput⟩ := putName_within hk
    exact operation_append_overflows hf hput (by rwa [name16_length])
  case frameEnd => exact operation_raised hf (finalize_long hl)

/-- Settles O12: each of the three checks its range before it writes. -/
theorem rangeErrorChangesFaultOnly : Obligations.RangeErrorChangesFaultOnly := fun _ hf =>
  ⟨fun _ hk => operation_raised hf (getHalf_past hk), fun _ hk => operation_raised hf (putName_past hk),
    fun h4 => operation_raised hf (finalize_short h4)⟩

end Sys2Proof.Machine
end

section
/-! Reset (R40, R217, R240): what it answers, and the registers and buffers it leaves. -/
namespace Sys2Proof.Machine

theorem runMove_reset {c : Station} {p : Params} (hc : c.admitted = true) (hp : p.admitted = true) (s : State) :
    runMove (.reset c p) s = .next (resetBlock c p s) :=
  if_pos (Bool.and_eq_true_iff.mpr ⟨hc, hp⟩)

theorem Station.not_supported_iff {c : Station} : ¬ c.supported = true ↔ c.fmtNumeric ≠ .float ∨ c.fmtPhasor ≠ .polar := by
  rw [Station.supported, Bool.and_eq_true_iff, beq_iff_eq, beq_iff_eq, not_and_or]

theorem faultAtRelease_eq (c : Station) :
    faultAtRelease c = if c.fmtNumeric ≠ .float ∨ c.fmtPhasor ≠ .polar then 0x0001 else 0x0000 := by
  simp only [faultAtRelease, ← Station.not_supported_iff, ite_not]

/-- Settles O6: either reset writes each register and empties both buffers, and FAULT is the check's result. -/
theorem resetLeavesTableValues : Obligations.ResetLeavesTableValues := by
  refine fun c p s hc hp => ⟨resetBlock c p s, runMove_reset hc hp s, fun u hu => ?_⟩
  obtain rfl | rfl := List.mem_pair.mp hu <;>
    exact ⟨rfl, rfl, rfl, rfl, rfl, rfl, rfl, faultAtRelease_eq c, fun _ => rfl, fun _ => rfl⟩

end Sys2Proof.Machine
end
